-- ==== Sys2Proof/Word.lean ====
section
/-! DEFINITION. The word types: command and status words, binary64 images, bytes (00_scope.md R7, R9). -/

namespace Sys2Proof

/-- A command word or a STATUS word: `CMDW` = 32 bits (00_scope.md R7, R9). -/
abbrev Word := BitVec 32

/-- One real component under `NUM_b64`: the 64 bits of an IEEE 754 binary64 number (40_complex_arith.md R102). -/
abbrev F64 := BitVec 64

/-- One byte of the host bus (20_memory.md R53). -/
abbrev Byte := BitVec 8

end Sys2Proof
end

