-- ==== Sys2Proof/Config.lean ====
section
/-! DEFINITION. What an implementation fixes and what the spec leaves free: the numerics record NUM (40_complex_arith.md R100),
the open parameters (00_scope.md R7, 20_memory.md R52), and the free values, which are constants without a body. -/

namespace Sys2Proof

/-- The rounded operations of `NUM_b64` whose result can be a newly produced NaN (40_complex_arith.md R102, R113). -/
inductive NumOp where
  | add | sub | mul | div
  deriving DecidableEq, Repr

/-- FREE VALUE (log 3). Sign (top bit) and 51 bits of payload of the NaN an operation produces: "a *draw* (any value)" (R113). -/
opaque Config.nanDraw : NumOp → F64 → F64 → BitVec 52

/-- FREE VALUE (log 4). What the implementation's cosine gives for cos(π·p/q), p ≥ 1 (R102: opaque; in the twiddle
table it is then made finite, R154 (a)). -/
opaque Config.cosPi : Nat → Nat → F64

/-- FREE VALUE (log 4). What the implementation's sine gives for sin(π·p/q), p ≥ 1 (R102: opaque; in the twiddle
table it is then made finite, R154 (a)). -/
opaque Config.sinPi : Nat → Nat → F64

/-- FREE VALUE (log 4). The sign of the zero `rsinpi 0 q`, which "is not fixed by any source" (R109 (c), 93 U11). -/
opaque Config.sinZeroSign : Nat → Bool

/-- FREE VALUE (log 8). A component of what DMEM holds once a protocol fault has happened (60_exceptions.md R206): by the
value of the counter `draws`, the element's index, and which component (0 real, 1 imaginary). -/
opaque Config.freeComponent : Nat → Nat → Nat → F64

/-- FREE VALUE (log 19). A byte of an element's bus image that its layout gives to neither component: by the component images and
the byte's place. -/
opaque Config.paddingByte : Nat → Nat → Nat → Byte

/-- The numerics record `NUM` (40_complex_arith.md R100) over a type `R` of reals. `rdraw` is the model's own addition: the
supply of unspecified components that R206 calls for (log 8); it takes no part in any arithmetic. -/
structure Num (R : Type) where
  rzero  : R
  radd   : R → R → R
  rsub   : R → R → R
  rmul   : R → R → R
  rneg   : R → R
  rdivn  : R → Nat → R
  rcospi : Nat → Nat → R
  rsinpi : Nat → Nat → R
  rdraw  : Nat → Nat → Nat → R

/-- How a real component shows as a number on the host bus: the component format of `ELEM_LAYOUT` (20_memory.md R53). -/
structure Image (R : Type) where
  bits   : R → Nat
  ofBits : Nat → R

/-- The machine's configuration fields that are functions (00_scope.md R18): `NUM`, and the images of its components. -/
structure Setup (R : Type) where
  num   : Num R
  image : Image R

/-- `ELEM_LAYOUT` (00_scope.md R7, 20_memory.md R53) as plain data: how many bytes of the data window an element takes, and at
which of them the bytes of each component stand, the component's least significant byte first (log 19). -/
structure ElemLayout where
  size : Nat
  re   : List Nat
  im   : List Nat
  deriving DecidableEq, Repr

/-- The default of `ELEM_LAYOUT` (20_memory.md R53): 16 bytes, real part at 0..7, imaginary part at 8..15, little-endian. -/
def Config.defaultLayout : ElemLayout :=
  { size := 16, re := [0, 1, 2, 3, 4, 5, 6, 7], im := [8, 9, 10, 11, 12, 13, 14, 15] }

/-- The open parameters of the core, as plain data: `NMAX`, `LMAX`, `ELEM_LAYOUT` (00_scope.md R7) and the platform's
`REG_BASE`, `DMEM_BASE` (20_memory.md R52). State carries one and no step changes it (log 1). -/
structure Params where
  nmax     : Nat
  lmax     : Nat
  regBase  : Nat
  dmemBase : Nat
  layout   : ElemLayout
  deriving DecidableEq, Repr

/-- The largest value of the 24-bit LEN field (30_encoding.md R77). -/
def Config.maxLen : Nat := 2 ^ 24 - 1

/-- DESIGN CHOICE (log 1). The parameters at reset: capacities as large as 00_scope.md R7 allows, so that no command is refused
for want of room; the register block at bus address 0 and the data window at 16; the default layout. -/
def Config.defaultParams : Params :=
  { nmax := 2 ^ 24 - 1, lmax := 2 ^ 26, regBase := 0, dmemBase := 16, layout := Config.defaultLayout }

end Sys2Proof
end

