-- ==== Sys2Proof/Syntax.lean ====
section
/-! DEFINITION. The instructions: one constructor per row of spec/opcode_table.json. -/

namespace Sys2Proof

/-- The sign `s` of a transform (00_scope.md R12): `neg` is −1 (forward), `pos` is +1 (inverse). -/
inductive Sign where
  | neg | pos
  deriving DecidableEq, Repr

/-- The memories the permuter and the butterfly network can work on: the values of `MSEL` (10_state.md R24). -/
inductive MemSel where
  | dmem | amem | bmem
  deriving DecidableEq, Repr

/-- The memories a sequencer read or write can name (20_memory.md R55). -/
inductive MemId where
  | dmem | amem | bmem | chtab
  deriving DecidableEq, Repr

/-- The working registers that hold a Complex value (10_state.md R24). -/
inductive CReg where
  | w | p | t | z
  deriving DecidableEq, Repr

/-- Where a primitive takes an operand from or puts its result (log 13): a Complex working register, or an element of a
memory; the places that R128 to R178 use the primitives of R103 to R110 with. -/
inductive COperand where
  | reg  (r : CReg)
  | elem (m : MemId) (k : Nat)
  deriving DecidableEq, Repr

/-- The 26 rows of spec/opcode_table.json. -/
inductive Instr where
  /-- `PERMUTE n` (41_permute.md R125). -/
  | permute (n : Nat)
  /-- `XFORM_POW2 n, FWD|INV` (42_pow2_transform.md R140). -/
  | xformPow2 (n : Nat) (inv : Bool)
  /-- `XFORM_GEN n, FWD|INV` (43_general_transform.md R165). -/
  | xformGen (n : Nat) (inv : Bool)
  /-- `RESERVED_OP3`: a word with OP = 3 and any other bits (30_encoding.md R80 (a)). -/
  | reservedOp3 (len rsv : Nat) (inv : Bool)
  /-- `ILLEGAL_PERMUTE_INV`: PERMUTE with INV = 1 (30_encoding.md R80 (c)). -/
  | illegalPermuteInv (len : Nat)
  /-- `SWAP(M, i, j)` (41_permute.md R128). -/
  | swap (m : MemSel) (a b : Nat)
  /-- `BITREV(M, n)` (41_permute.md R127). -/
  | bitrev (m : MemSel) (n : Nat)
  /-- `TWLD`, operands NN, SS, G, STRIDE (42_pow2_transform.md R143). -/
  | twld
  /-- `BFLY(M, lo, hi, w)` with the twiddle factor in register W (42_pow2_transform.md R147). -/
  | bfly (m : MemSel) (lo hi : Nat)
  /-- `STAGES(M, n, s)` (42_pow2_transform.md R145). -/
  | stages (m : MemSel) (n : Nat) (sg : Sign)
  /-- `FFT2(M, n, s)` (42_pow2_transform.md R141). -/
  | fft2 (m : MemSel) (n : Nat) (sg : Sign)
  /-- `LCALC`, operand N (43_general_transform.md R167). -/
  | lcalc
  /-- `CHIRPGEN` for the element index in K (43_general_transform.md R170). -/
  | chirpgen
  /-- `CMOD` for the element index in K (43_general_transform.md R172). -/
  | cmod
  /-- `BKERN` for the element index in K (43_general_transform.md R174). -/
  | bkern
  /-- `PMUL` for the element index in K (43_general_transform.md R176). -/
  | pmul
  /-- `WBACK` for the element index in K (43_general_transform.md R178). -/
  | wback
  /-- `czero` (40_complex_arith.md R103), its result put into `d`. -/
  | czero (d : COperand)
  /-- `cadd(a, b)` (R104), its result put into `d`. -/
  | cadd (d a b : COperand)
  /-- `csub(a, b)` (R105), its result put into `d`. -/
  | csub (d a b : COperand)
  /-- `cmul(a, b)` (R106), its result put into `d`. -/
  | cmul (d a b : COperand)
  /-- `conj(a)` (R107), its result put into `d`. -/
  | conj (d a : COperand)
  /-- `cexp(s, p, q)` (R108), its result put into `d`. -/
  | cexp (d : COperand) (sg : Sign) (p q : Nat)
  /-- `cdivn(z, L)` (R110), its result put into `d`. -/
  | cdivn (d a : COperand) (l : Nat)
  /-- Pseudo-instruction `FFT n` = `XFORM_GEN n, FWD` (30_encoding.md R83). -/
  | fft (n : Nat)
  /-- Pseudo-instruction `IFFT n` = `XFORM_GEN n, INV` (30_encoding.md R83). -/
  | ifft (n : Nat)
  deriving DecidableEq, Repr

end Sys2Proof
end

