-- ==== Sys2Proof/WellFormed.lean ====
section
/-! DEFINITION. The operand values the spec gives each instruction: field widths (30_encoding.md R75) and the preconditions of the
micro-operations and primitives. -/

namespace Sys2Proof

/-- The power-of-two test of 60_exceptions.md R201: n ≠ 0 and n & (n − 1) = 0 (1 is a power of two, 0 is not; 00_scope.md R8). -/
def isPow2 (n : Nat) : Bool := n != 0 && (n &&& (n - 1)) == 0

/-- A LEN operand fits its 24-bit field (30_encoding.md R77). -/
def lenFits (n : Nat) : Bool := n < 2 ^ 24

/-- The operands are ones the spec gives the instruction. -/
def Instr.wf : Instr → Bool
  | .permute n => lenFits n
  | .xformPow2 n _ => lenFits n
  | .xformGen n _ => lenFits n
  | .reservedOp3 len rsv _ => lenFits len && rsv < 32
  | .illegalPermuteInv len => lenFits len
  | .swap _ a b => a < b
  | .bitrev _ n => isPow2 n
  | .twld => true
  | .bfly _ lo hi => lo < hi
  | .stages _ n _ => isPow2 n
  | .fft2 _ n _ => isPow2 n
  | .lcalc => true
  | .chirpgen => true
  | .cmod => true
  | .bkern => true
  | .pmul => true
  | .wback => true
  | .czero _ => true
  | .cadd _ _ _ => true
  | .csub _ _ _ => true
  | .cmul _ _ _ => true
  | .conj _ _ => true
  | .cexp _ _ _ q => 1 ≤ q
  | .cdivn _ _ l => isPow2 l
  | .fft n => lenFits n
  | .ifft n => lenFits n

end Sys2Proof
end

