-- ==== Sys2Proof/Decode.lean ====
section
/-! DEFINITION. The command word: its fields, the decoder (30_encoding.md R75, R76) and, after it, the encoder (R82). -/

namespace Sys2Proof

/-- `w[lo+width−1 : lo]` read as an unsigned number (00_scope.md R9). -/
def field (w : Word) (lo width : Nat) : Nat := w.toNat / 2 ^ lo % 2 ^ width

/-- `OP` = bits 1:0 (30_encoding.md R75). -/
def opField (w : Word) : Nat := field w 0 2

/-- `INV` = bit 2 (R75). -/
def invField (w : Word) : Bool := field w 2 1 == 1

/-- `RSV` = bits 7:3 (R75). -/
def rsvField (w : Word) : Nat := field w 3 5

/-- `LEN` = bits 31:8, unsigned, as it stands (R75, R77). -/
def lenField (w : Word) : Nat := field w 8 24

/-- Why the decoder gives no instruction of the table. -/
inductive Illegal where
  /-- `RSV` is not 0 and `OP` is not 3 (30_encoding.md R80 (b)); such a word is illegal and is no row of the table (log 18). -/
  | reservedBits
  deriving DecidableEq, Repr

/-- The decoder, total on all words (R76). The illegal rows of the table come out as the instructions of those rows. -/
def decode (w : Word) : Except Illegal Instr :=
  if opField w = 3 then .ok (.reservedOp3 (lenField w) (rsvField w) (invField w))
  else if rsvField w ≠ 0 then .error .reservedBits
  else if opField w = 0 then
    if invField w then .ok (.illegalPermuteInv (lenField w)) else .ok (.permute (lenField w))
  else if opField w = 1 then .ok (.xformPow2 (lenField w) (invField w))
  else .ok (.xformGen (lenField w) (invField w))

/-- A word assembled from its four fields (R75, R82). -/
def assemble (len rsv : Nat) (inv : Bool) (op : Nat) : Word :=
  BitVec.ofNat 32 (len * 2 ^ 8 + rsv * 2 ^ 3 + inv.toNat * 2 ^ 2 + op)

/-- The encoder: `word = (n << 8) | (inv << 2) | op` (R82). A row without a bit pattern (R85) has no word; a
pseudo-instruction has the word of the command it stands for (R83). -/
def encode : Instr → Option Word
  | .permute n => some (assemble n 0 false 0)
  | .xformPow2 n inv => some (assemble n 0 inv 1)
  | .xformGen n inv => some (assemble n 0 inv 2)
  | .reservedOp3 len rsv inv => some (assemble len rsv inv 3)
  | .illegalPermuteInv len => some (assemble len 0 true 0)
  | .fft n => some (assemble n 0 false 2)
  | .ifft n => some (assemble n 0 true 2)
  | .swap _ _ _ => none
  | .bitrev _ _ => none
  | .twld => none
  | .bfly _ _ _ => none
  | .stages _ _ _ => none
  | .fft2 _ _ _ => none
  | .lcalc => none
  | .chirpgen => none
  | .cmod => none
  | .bkern => none
  | .pmul => none
  | .wback => none
  | .czero _ => none
  | .cadd _ _ _ => none
  | .csub _ _ _ => none
  | .cmul _ _ _ => none
  | .conj _ _ => none
  | .cexp _ _ _ _ => none
  | .cdivn _ _ _ => none

/-- The command a pseudo-instruction stands for (R83); every other instruction stands for itself. -/
def Instr.expand : Instr → Instr
  | .fft n => .xformGen n false
  | .ifft n => .xformGen n true
  | i => i

/-- The command word whose low `nbits` bits are `w` and whose other bits are 0. -/
def tableWord (nbits w : Nat) : Word := BitVec.ofNat 32 (w % 2 ^ nbits)

/-- What the decoder reads from the command word whose low `nbits` bits are `w`, the bits above them 0. A row of 0 bits has
no word, and no command is longer than 32 bits (R75). -/
def decodeTableWord (nbits w : Nat) : Option Instr :=
  if nbits = 0 ∨ 32 < nbits then none
  else (decode (tableWord nbits w)).toOption

/-- One row of the opcode map (R78): a word selects it when `w & mask = match`. -/
structure OpcodeRow where
  pattern : Word
  mask    : Word
  deriving DecidableEq, Repr

/-- `w & mask = match` (R78). -/
def OpcodeRow.selects (r : OpcodeRow) (w : Word) : Bool := (w &&& r.mask) == r.pattern

/-- Row PERMUTE (R78). -/
def rowPermute : OpcodeRow := ⟨0x00000000#32, 0x000000FF#32⟩

/-- Row XFORM_POW2 (R78). -/
def rowXformPow2 : OpcodeRow := ⟨0x00000001#32, 0x000000FB#32⟩

/-- Row XFORM_GEN (R78). -/
def rowXformGen : OpcodeRow := ⟨0x00000002#32, 0x000000FB#32⟩

/-- Row RESERVED_OP3 (R78, R80 (a)). -/
def rowReservedOp3 : OpcodeRow := ⟨0x00000003#32, 0x00000003#32⟩

/-- Row ILLEGAL_PERMUTE_INV (R80 (c)). -/
def rowIllegalPermuteInv : OpcodeRow := ⟨0x00000004#32, 0x000000FF#32⟩

/-- The row whose words stand for the instruction, where it has words. -/
def Instr.row : Instr → Option OpcodeRow
  | .permute _ => some rowPermute
  | .xformPow2 _ _ => some rowXformPow2
  | .xformGen _ _ => some rowXformGen
  | .fft _ => some rowXformGen
  | .ifft _ => some rowXformGen
  | .reservedOp3 _ _ _ => some rowReservedOp3
  | .illegalPermuteInv _ => some rowIllegalPermuteInv
  | _ => none

end Sys2Proof
end

