-- ==== Sys2Proof/Machine/State.lean ====
section
/-! DEFINITION. The state of the core (10_state.md R20), the reasons a step can stop, and the state after reset (R39). -/

namespace Sys2Proof.Machine

/-- A Complex value: a pair of reals (00_scope.md R10, R15). -/
structure Cplx (R : Type) where
  re : R
  im : R
  deriving DecidableEq, Repr

/-- The contents of a memory: (index, value) pairs, indices strictly rising. An index that is not listed is *unwritten*
(10_state.md R28; log 6, log 7). -/
abbrev Mem (R : Type) := List (Nat × Cplx R)

/-- The working registers (10_state.md R24). Index registers are unbounded naturals (00_scope.md R7 `IDXW`). -/
structure Regs (R : Type) where
  /-- opcode of the running command -/
  opc : BitVec 2
  /-- length of the running command -/
  n : Nat
  /-- sign of the outer command -/
  s : Sign
  /-- the memory the permuter and the butterfly network work on -/
  msel : MemSel
  /-- the length the power-of-two routine runs at -/
  nn : Nat
  /-- sign of the running power-of-two routine -/
  ss : Sign
  /-- permuter: position -/
  i : Nat
  /-- permuter: mirrored counter -/
  j : Nat
  /-- permuter: bit mask -/
  msk : Nat
  /-- half-size of the stage -/
  step : Nat
  /-- table stride -/
  stride : Nat
  /-- group index -/
  g : Nat
  /-- lower index of the pair -/
  lo : Nat
  /-- higher index of the pair -/
  hi : Nat
  /-- the current twiddle factor -/
  w : Cplx R
  /-- butterfly product -/
  p : Cplx R
  /-- pre-update lower element; first temporary of SWAP -/
  t : Cplx R
  /-- padded length L(N) -/
  l : Nat
  /-- element index of the Bluestein phases -/
  k : Nat
  /-- Bluestein temporary; second temporary of SWAP -/
  z : Cplx R
  deriving DecidableEq, Repr

/-- The datapath: memories, working registers, and what decides how a memory element reads. Everything the micro-operations
of 41, 42 and 43 touch, over any type of reals. -/
structure Datapath (R : Type) where
  /-- the open parameters, fixed for the machine (log 1) -/
  par : Params
  /-- STATUS.PFAULT (10_state.md R22 bit 3). It stands here and nowhere else: while it is 1 what DMEM holds is unspecified
  (60_exceptions.md R206). -/
  pfault : Bool
  /-- MODEL'S OWN: the counter the free values of R206 are drawn with (log 8) -/
  draws : Nat
  /-- DMEM (R29) -/
  dmem : Mem R
  /-- AMEM (R30) -/
  amem : Mem R
  /-- BMEM (R31) -/
  bmem : Mem R
  /-- CHTAB (R34) -/
  chtab : Mem R
  /-- the working registers (R24) -/
  r : Regs R
  deriving DecidableEq, Repr

/-- The phases of SEQ (10_state.md R26). -/
inductive Phase where
  | idle | pPerm | tPerm | tStages | gLcalc | gChirp | gCmod | gBkern | gFfta | gFftb | gPmul | gIffta | gWback
  deriving DecidableEq, Repr

/-- Where in its routine the sequencer stands (log 12): `single` in a phase of one micro-operation per K; `perm` at the
test of a turn of BITREV (R127); `twld` before the TWLD of group G, `bfly` before the BFLY of pair (LO, HI) (R145). -/
inductive RoutinePos where
  | single | perm | twld | bfly
  deriving DecidableEq, Repr

/-- The error codes of 60_exceptions.md R196. -/
inductive ErrCode where
  | illegal | len | cap
  deriving DecidableEq, Repr

/-- One move of the host, or `tick` (log 10). -/
inductive HostMove (R : Type) where
  /-- `HostWrite(k, v)` (20_memory.md R63). -/
  | hwrite (k : Nat) (v : Cplx R)
  /-- `HostRead(k)` (R63). -/
  | hread (k : Nat)
  /-- A write of a whole word to a register, by register number: CMD = 0, STATUS = 1 (R50, R52). -/
  | regWrite (r : Nat) (w : Word)
  /-- A read of a register, by register number. -/
  | regRead (r : Nat)
  /-- A write of these bytes at this byte address of the host bus (R52 to R54). -/
  | busWrite (a : Nat) (bs : List Byte)
  /-- A read of this many bytes at this byte address of the host bus (R52 to R54). -/
  | busRead (a len : Nat)
  /-- `WAIT` (30_encoding.md R83): reads STATUS until BUSY = 0. -/
  | wait
  /-- The host makes no move while the sequencer makes one step (log 10). -/
  | tick
  /-- Reset (70_reset_and_hazards.md R225). -/
  | reset
  deriving DecidableEq, Repr

/-- What the last host read returned (log 11). -/
inductive HostData (R : Type) where
  | none
  | word (w : Word)
  | elem (v : Cplx R)
  | bytes (bs : List Byte)
  deriving DecidableEq, Repr

/-- Why the machine stops with a fault. -/
inductive Fault where
  /-- A read of an unwritten element (20_memory.md R57, 60_exceptions.md R208): raised by every sequencer read and by HostRead.
  Safe: the hardware goes on with an unspecified value (log 6). -/
  | uninitialisedElement
  /-- A sequencer access at an index that names no element of the memory (20_memory.md R55, R58): raised by every sequencer
  access. Safe: R58 says the sequencer never forms such an index (log 16). -/
  | indexOutOfRange
  /-- A command issued while STATUS.PFAULT = 1, which 60_exceptions.md R197 step 1 calls unspecified: raised by every command.
  Safe (log 9). -/
  | commandAfterProtocolFault
  deriving DecidableEq, Repr

/-- Why the machine gives no meaning. -/
inductive Refusal where
  /-- An instruction that has no meaning yet: raised by exec's refused arms only. Safe. -/
  | notModelled (mnemonic : String)
  /-- BITREV, STAGES or FFT2 of a length that is no power of two (41_permute.md R131): raised by those three. Safe (log 15). -/
  | lengthNotPowerOfTwo
  /-- A host access to an element index at or above NMAX (20_memory.md R58, 93 U20): raised by HostRead and HostWrite. Safe
  (log 17). -/
  | noSuchElement
  /-- A host access to a register number other than 0 and 1 (10_state.md R23): raised by register reads and writes. Safe
  (log 17). -/
  | noSuchRegister
  /-- A bus access that is not exactly one register word or one element (20_memory.md R54): raised by bus reads and writes. Safe
  (log 17). -/
  | partialAccess
  deriving DecidableEq, Repr

/-- The state of a machine whose components are of type `R` (00_scope.md R7, R18; log 2). -/
structure State.Of (R : Type) where
  /-- the latched command word (10_state.md R21) -/
  cmdl : Word
  /-- STATUS.BUSY (R22) -/
  busy : Bool
  /-- STATUS.DONE (R22) -/
  done : Bool
  /-- STATUS.ERR (R22) -/
  err : Bool
  /-- STATUS.ECODE (R22) -/
  ecode : BitVec 4
  /-- the sequencer's phase (R26) -/
  seq : Phase
  /-- where in its routine the sequencer stands (log 12) -/
  upos : RoutinePos
  /-- memories, working registers, STATUS.PFAULT -/
  dp : Datapath R
  /-- MODEL'S OWN: the run is marked faulty (60_exceptions.md R206): set with PFAULT and never cleared, by a reset neither
  (log 25) -/
  faulty : Bool
  /-- MODEL'S OWN: the host's moves still to come (log 10) -/
  script : List (HostMove R)
  /-- MODEL'S OWN: what the last host read returned (log 11) -/
  rdata : HostData R
  deriving DecidableEq, Repr

/-- The state of the machine at `NUM_b64` (40_complex_arith.md R102), which `exec` and `step` work on. -/
abbrev State : Type := State.Of F64

/-- What `exec` and `step` answer. -/
abbrev Out (R : Type := F64) := Host.Outcome (State.Of R) Fault Refusal

/-- DESIGN CHOICE (log 5). The working registers at reset, which R39 leaves unspecified; `z` is the value of the Complex ones. -/
def Regs.resetWith {R : Type} (z : Cplx R) : Regs R :=
  { opc := 0#2, n := 0, s := .neg, msel := .dmem, nn := 0, ss := .neg, i := 0, j := 0, msk := 0, step := 0, stride := 0,
    g := 0, lo := 0, hi := 0, w := z, p := z, t := z, l := 0, k := 0, z := z }

/-- The datapath at reset: PFAULT 0, every element unwritten (R39); parameters and counter as log 1 and log 8 say. -/
def Datapath.resetWith {R : Type} (z : Cplx R) : Datapath R :=
  { par := Config.defaultParams, pfault := false, draws := 0, dmem := [], amem := [], bmem := [], chtab := [],
    r := Regs.resetWith z }

/-- A machine right after reset (10_state.md R39): STATUS 0, SEQ IDLE, every element unwritten. `cmdl`, `upos` and the working
registers hold the values of log 5. -/
def State.Of.resetWith {R : Type} (z : Cplx R) : State.Of R :=
  { cmdl := 0#32, busy := false, done := false, err := false, ecode := 0#4, seq := .idle, upos := .single,
    dp := Datapath.resetWith z, faulty := false, script := [], rdata := .none }

/-- (+0, +0): the value of a Complex register at reset (log 5). -/
def zeroF64 : Cplx F64 := ⟨0#64, 0#64⟩

/-- The working registers at reset (log 5). -/
def Regs.reset : Regs F64 := Regs.resetWith zeroF64

/-- The datapath at reset. -/
def Datapath.reset : Datapath F64 := Datapath.resetWith zeroF64

/-- The machine right after reset (10_state.md R39). -/
def State.reset : State := State.Of.resetWith zeroF64

end Sys2Proof.Machine
end

