-- ==== Sys2Proof/Machine/Numerics.lean ====
section
/-! DEFINITION. `NUM_b64` (40_complex_arith.md R102): IEEE 754 binary64 with round to nearest even, one rounding per operation, no
fused operation, default (non-trapping) results for infinities, NaN, subnormals and signed zeros (R113). -/

namespace Sys2Proof.Machine

/-- The exponent field of a binary64 image. -/
def f64Exp (x : F64) : Nat := x.toNat / 2 ^ 52 % 2 ^ 11

/-- The fraction field. -/
def f64Frac (x : F64) : Nat := x.toNat % 2 ^ 52

/-- The sign bit. -/
def f64Sign (x : F64) : Bool := x.toNat / 2 ^ 63 == 1

def f64IsNaN (x : F64) : Bool := f64Exp x == 2047 && f64Frac x != 0

def f64IsInf (x : F64) : Bool := f64Exp x == 2047 && f64Frac x == 0

def f64IsZero (x : F64) : Bool := f64Exp x == 0 && f64Frac x == 0

def f64IsFinite (x : F64) : Bool := f64Exp x != 2047

/-- The magnitude of a finite number is `f64Mant x · 2^(f64Scale x − 1074)`. -/
def f64Mant (x : F64) : Nat := if f64Exp x = 0 then f64Frac x else 2 ^ 52 + f64Frac x

def f64Scale (x : F64) : Nat := if f64Exp x = 0 then 0 else f64Exp x - 1

/-- The image with this sign and these 63 bits below it. -/
def f64Pack (neg : Bool) (magnitude : Nat) : F64 := BitVec.ofNat 64 (neg.toNat * 2 ^ 63 + magnitude)

def f64Zero (neg : Bool) : F64 := f64Pack neg 0

def f64Inf (neg : Bool) : F64 := f64Pack neg (2047 * 2 ^ 52)

/-- The number 1. -/
def f64One : F64 := f64Pack false (1023 * 2 ^ 52)

/-- `m / 2^k` rounded to the nearest natural, ties to even. -/
def roundShift (m k : Nat) : Nat :=
  let q := m / 2 ^ k
  let r := m % 2 ^ k
  if 2 ^ k < 2 * r ∨ (2 * r = 2 ^ k ∧ q % 2 = 1) then q + 1 else q

/-- The binary64 number nearest to `± m · 2^e`, ties to even; infinity where the magnitude rounds past the largest finite
number, gradual underflow at the bottom (93 U10). The magnitude bits of mantissa `q` at scale `2^t` are
`(t + 1074) · 2^52 + q`: for a subnormal `t = −1074`, and a carry out of the mantissa steps the exponent. -/
def f64Round (neg : Bool) (m : Nat) (e : Int) : F64 :=
  if m = 0 then f64Zero neg
  else
    let t : Int := max (e + (Nat.log2 m : Int) - 52) (-1074)
    let q := if t ≤ e then m * 2 ^ (e - t).toNat else roundShift m (t - e).toNat
    let bits := (t + 1074).toNat * 2 ^ 52 + q
    if 2047 * 2 ^ 52 ≤ bits then f64Inf neg else f64Pack neg bits

/-- FREE VALUE (log 3). A quiet NaN whose sign and payload are whatever `Config.nanDraw` gives. -/
def f64NaN (op : NumOp) (x y : F64) : F64 :=
  let d := (Config.nanDraw op x y).toNat
  f64Pack (d / 2 ^ 51 == 1) (2047 * 2 ^ 52 + 2 ^ 51 + d % 2 ^ 51)

/-- The NaN of a commutative operation: the same draw for (x, y) and (y, x), since R106 has `radd` and `rmul` commute bit for
bit (log 3). -/
def f64NaNComm (op : NumOp) (x y : F64) : F64 :=
  if x.toNat ≤ y.toNat then f64NaN op x y else f64NaN op y x

/-- A finite number in units of 2^−1074. -/
def f64Units (x : F64) : Int :=
  let m : Int := ((f64Mant x * 2 ^ f64Scale x : Nat) : Int)
  if f64Sign x then -m else m

/-- The sum of two numbers neither of which is NaN, unless they are opposite infinities; then `nan`. An exact zero sum is
+0 unless both are −0. -/
def f64SumOr (nan : F64) (x y : F64) : F64 :=
  if f64IsInf x then
    if f64IsInf y && f64Sign x != f64Sign y then nan else x
  else if f64IsInf y then y
  else
    let v := f64Units x + f64Units y
    if v = 0 then
      if f64IsZero x && f64IsZero y then f64Zero (f64Sign x && f64Sign y) else f64Zero false
    else f64Round (v < 0) v.natAbs (-1074)

/-- `rneg`: flips the sign bit (R102). -/
def f64Neg (x : F64) : F64 := x ^^^ BitVec.ofNat 64 (2 ^ 63)

def f64Add (x y : F64) : F64 :=
  let nan := f64NaNComm .add x y
  if f64IsNaN x || f64IsNaN y then nan else f64SumOr nan x y

def f64Sub (x y : F64) : F64 :=
  let nan := f64NaN .sub x y
  if f64IsNaN x || f64IsNaN y then nan else f64SumOr nan x (f64Neg y)

def f64Mul (x y : F64) : F64 :=
  let nan := f64NaNComm .mul x y
  let neg := f64Sign x != f64Sign y
  if f64IsNaN x || f64IsNaN y then nan
  else if f64IsInf x || f64IsInf y then
    if f64IsZero x || f64IsZero y then nan else f64Inf neg
  else f64Round neg (f64Mant x * f64Mant y) ((f64Scale x : Int) + f64Scale y - 2148)

/-- Division. The quotient of two finite numbers is taken to at least 75 bits with a sticky bit below them, so that one
rounding of it is the rounding of the exact quotient. -/
def f64Div (x y : F64) : F64 :=
  let nan := f64NaN .div x y
  let neg := f64Sign x != f64Sign y
  if f64IsNaN x || f64IsNaN y then nan
  else if f64IsInf x then if f64IsInf y then nan else f64Inf neg
  else if f64IsInf y then f64Zero neg
  else if f64IsZero y then if f64IsZero x then nan else f64Inf neg
  else
    let num := f64Mant x * 2 ^ 128
    let q := num / f64Mant y
    let sticky := if num % f64Mant y = 0 then 0 else 1
    f64Round neg (2 * q + sticky) ((f64Scale x : Int) - f64Scale y - 129)

/-- A natural as a binary64 number; exact for a power of two up to 2^26 (R102). -/
def f64OfNat (n : Nat) : F64 := f64Round false n 0

/-- `rdivn x L`: converts `L` and divides (R102). -/
def f64DivN (x : F64) (l : Nat) : F64 := f64Div x (f64OfNat l)

/-- A finite number: `x` itself if it is one, else `x` with the top bit of its exponent cleared. Every finite number is one of
its values. -/
def f64ToFinite (x : F64) : F64 := if f64IsFinite x then x else x ^^^ BitVec.ofNat 64 (2 ^ 62)

/-- `(p, q)` are the arguments of an entry of the twiddle table, p = m < q = n/2 for a power of two n >= 2 (10_state.md R33). -/
def twiddleArgs (p q : Nat) : Bool := isPow2 q && decide (p < q)

/-- What the implementation's cosine or sine gives at `(p, q)`: any value at all (R102), but a finite number where it is an entry
of the twiddle table (42_pow2_transform.md R154 (a), log 4). -/
def f64OfTable (p q : Nat) (v : F64) : F64 := if twiddleArgs p q then f64ToFinite v else v

/-- `rcospi p q`: exactly one at p = 0 (R109 (c)), else what the implementation's cosine gives. -/
def f64CosPi (p q : Nat) : F64 := if p = 0 then f64One else f64OfTable p q (Config.cosPi p q)

/-- `rsinpi p q`: a zero at p = 0, its sign free (R109 (c)), else what the implementation's sine gives. -/
def f64SinPi (p q : Nat) : F64 := if p = 0 then f64Zero (Config.sinZeroSign q) else f64OfTable p q (Config.sinPi p q)

/-- `NUM_b64` (R102): the numerics the machine runs with (log 2). -/
def numB64 : Num F64 :=
  { rzero := f64Zero false, radd := f64Add, rsub := f64Sub, rmul := f64Mul, rneg := f64Neg, rdivn := f64DivN,
    rcospi := f64CosPi, rsinpi := f64SinPi, rdraw := Config.freeComponent }

/-- The default configuration: `NUM_b64`, a component as its 64 bits (20_memory.md R53). -/
def setupB64 : Setup F64 := { num := numB64, image := { bits := BitVec.toNat, ofBits := BitVec.ofNat 64 } }

end Sys2Proof.Machine
end

