-- ==== Sys2Proof/Machine/Flags.lean ====
section
/-! DEFINITION. The STATUS flags: the error codes and the STATUS word (10_state.md R22, 60_exceptions.md R196). The core has no
arithmetic flags (40_complex_arith.md R112). -/

namespace Sys2Proof.Machine

/-- ECODE of an error (R196). -/
def ErrCode.code : ErrCode → BitVec 4
  | .illegal => 1#4
  | .len => 2#4
  | .cap => 3#4

/-- The STATUS word (R22): BUSY bit 0, DONE bit 1, ERR bit 2, PFAULT bit 3, ECODE bits 7:4, bits 31:8 zero. -/
def statusWord {R : Type} (s : State.Of R) : Word :=
  BitVec.ofNat 32
    (s.busy.toNat + s.done.toNat * 2 + s.err.toNat * 4 + s.dp.pfault.toNat * 8 + s.ecode.toNat * 16)

end Sys2Proof.Machine
end

