-- ==== Sys2Proof/Machine/Ops.lean ====
section
/-! DEFINITION. The named operations over memories and registers (20_memory.md R55, R56), and over the control state: latching a
command, error completion, completion, protocol fault (60_exceptions.md R197, R202, R206; 10_state.md R27). -/

namespace Sys2Proof.Machine

/-! ## Memories -/

/-- The value of element `k`, if it is written. -/
def Mem.get {R : Type} : Mem R → Nat → Option (Cplx R)
  | [], _ => none
  | (a, v) :: rest, k => if a = k then some v else Mem.get rest k

/-- Element `k` becomes written with `v` (R56); the list stays in rising order. -/
def Mem.set {R : Type} : Mem R → Nat → Cplx R → Mem R
  | [], k, v => [(k, v)]
  | (a, u) :: rest, k, v =>
    if k < a then (k, v) :: (a, u) :: rest
    else if k = a then (k, v) :: rest
    else (a, u) :: Mem.set rest k v

/-- The canonical form of a memory of `size` elements whose listed indices are at least `from_`: strictly rising and below
`size`. -/
def Mem.wfFrom {R : Type} (size from_ : Nat) : Mem R → Bool
  | [] => true
  | (a, _) :: rest => decide (from_ ≤ a) && decide (a < size) && Mem.wfFrom size (a + 1) rest

/-- The canonical form of a memory of `size` elements (log 7). -/
def Mem.wf {R : Type} (size : Nat) (m : Mem R) : Bool := Mem.wfFrom size 0 m

/-- `MSEL` names one of the memories (10_state.md R24). -/
def memOf : MemSel → MemId
  | .dmem => .dmem
  | .amem => .amem
  | .bmem => .bmem

namespace Datapath

variable {R : Type}

/-- The contents of a memory. -/
def mem (d : Datapath R) : MemId → Mem R
  | .dmem => d.dmem
  | .amem => d.amem
  | .bmem => d.bmem
  | .chtab => d.chtab

/-- `d` with the contents of one memory replaced. The memories are disjoint (10_state.md R32). -/
def setMem (d : Datapath R) (m : MemId) (x : Mem R) : Datapath R :=
  match m with
  | .dmem => { d with dmem := x }
  | .amem => { d with amem := x }
  | .bmem => { d with bmem := x }
  | .chtab => { d with chtab := x }

/-- The number of elements of a memory (20_memory.md R50). -/
def size (d : Datapath R) : MemId → Nat
  | .dmem => d.par.nmax
  | .amem => d.par.lmax
  | .bmem => d.par.lmax
  | .chtab => d.par.nmax

/-- `d` with its working registers changed. -/
def withRegs (d : Datapath R) (f : Regs R → Regs R) : Datapath R := { d with r := f d.r }

end Datapath

/-- FREE VALUE (log 8). What element `k` of DMEM reads as while PFAULT = 1 (60_exceptions.md R206). -/
def freeElem {R : Type} (nm : Num R) (draws k : Nat) : Cplx R := ⟨nm.rdraw draws k 0, nm.rdraw draws k 1⟩

/-- `MemRead(M, k)` (R55). An unwritten element faults (R57); while PFAULT = 1 what DMEM holds is unspecified and the read
gives a free value (60_exceptions.md R206). -/
def memRead {R : Type} (nm : Num R) (m : MemId) (k : Nat) (d : Datapath R) : Except Fault (Cplx R) :=
  if k < d.size m then
    if d.pfault = true ∧ m = .dmem then .ok (freeElem nm d.draws k)
    else
      match Mem.get (d.mem m) k with
      | some v => .ok v
      | none => .error .uninitialisedElement
  else .error .indexOutOfRange

/-- `MemWrite(M, k, v)` (R56). -/
def memWrite {R : Type} (m : MemId) (k : Nat) (v : Cplx R) (d : Datapath R) : Except Fault (Datapath R) :=
  if k < d.size m then .ok (d.setMem m (Mem.set (d.mem m) k v)) else .error .indexOutOfRange

/-- `f` done `k` times, stopping at the first fault: a `for` loop of 00_scope.md R11 whose index is a register that `f`
advances. -/
def repeatE {α : Type} (f : α → Except Fault α) : Nat → α → Except Fault α
  | 0, a => .ok a
  | k + 1, a => do
    let b ← f a
    repeatE f k b

/-- A datapath operation as a meaning: everything outside the datapath is unchanged. -/
def onDatapath {R : Type} (f : Datapath R → Except Fault (Datapath R)) (s : State.Of R) : Out R :=
  match f s.dp with
  | .ok d => .next { s with dp := d }
  | .error e => .fault e

/-! ## Control state -/

/-- Step 3 of 60_exceptions.md R197: the word is latched, DONE, ERR and ECODE are cleared. It is also what ends an error
(R205): there is no return instruction. -/
def beginCommand {R : Type} (w : Word) (s : State.Of R) : State.Of R :=
  { s with cmdl := w, done := false, err := false, ecode := 0#4 }

/-- Error completion (R202), the one operation by which every ERR_x is raised: ERR and ECODE are set and nothing else
changes; BUSY and DONE stay 0, SEQ stays IDLE, no memory is touched. -/
def errorCompletion {R : Type} (e : ErrCode) (s : State.Of R) : State.Of R :=
  { s with err := true, ecode := e.code }

/-- Item DONE of 10_state.md R27: BUSY <- 0, DONE <- 1, SEQ <- IDLE. DESIGN CHOICE (log 24): CMDL, the working registers, AMEM,
BMEM and CHTAB keep the values last written, where R25, R35 and 93 U21 say that their contents are then unspecified. -/
def completeCommand {R : Type} (s : State.Of R) : State.Of R :=
  { s with busy := false, done := true, seq := .idle, upos := .single }

/-- Protocol fault (60_exceptions.md R206): PFAULT <- 1, and from then on what DMEM holds is unspecified; the running command
carries on; the run is marked faulty for good (log 8, log 25). -/
def protocolFault {R : Type} (s : State.Of R) : State.Of R :=
  { s with dp := { s.dp with pfault := true, draws := s.dp.draws + 1 }, faulty := true }

/-- What the write of the word `w` to CMD does (R197). Step 1: with PFAULT = 1 the behaviour is unspecified (log 9). Step 2: with
BUSY = 1 it is a protocol fault and `w` is not decoded. Step 3 latches `w`; `rest` is steps 4 to 8. -/
def issueCommand {R : Type} (w : Word) (rest : State.Of R → State.Of R) (s : State.Of R) : Out R :=
  if s.dp.pfault then .fault .commandAfterProtocolFault
  else if s.busy then .next (protocolFault s)
  else .next (rest (beginCommand w s))

/-- The command word `w` is illegal: ERR_ILLEGAL (R197 step 4, R198). -/
def issueIllegal {R : Type} (w : Word) (s : State.Of R) : Out R := issueCommand w (errorCompletion .illegal) s

end Sys2Proof.Machine
end

