-- ==== Sys2Proof/Machine/Operands.lean ====
section
/-! DEFINITION. Index arithmetic (40_complex_arith.md R115), the index forms of 20_memory.md R67, the tables as functions, the
operands of the primitives, and the host bus image (20_memory.md R52 to R54). -/

namespace Sys2Proof.Machine

/-! ## Index arithmetic -/

/-- `rev_k(i)` (00_scope.md R8): the number whose k-bit representation is that of `i` reversed. -/
def revBits : Nat → Nat → Nat
  | 0, _ => 0
  | k + 1, i => i % 2 * 2 ^ k + revBits k (i / 2)

/-- The inner loop of 41_permute.md R127 on (J, MSK); `fuel` bounds its turns. -/
def mirrorCarry : Nat → Nat → Nat → Nat × Nat
  | 0, j, msk => (j, msk)
  | fuel + 1, j, msk =>
    if msk ≠ 0 ∧ j &&& msk ≠ 0 then mirrorCarry fuel (j ^^^ msk) (msk >>> 1) else (j, msk)

/-- The mirrored counter advanced (R127): MSK <- n >> 1, the inner loop, J <- J | MSK. The pair is (J, MSK) after it. MSK is
halved in every turn, so `log2 n + 1` turns are enough. -/
def mirrorAdvance (n j : Nat) : Nat × Nat :=
  let (j', msk') := mirrorCarry (Nat.log2 n + 1) j (n >>> 1)
  (j' ||| msk', msk')

/-- The loop of 43_general_transform.md R167; `fuel` bounds its turns. -/
def doubleUntil : Nat → Nat → Nat → Nat
  | 0, _, l => l
  | fuel + 1, n, l => if l ≤ 2 * n then doubleUntil fuel n (2 * l) else l

/-- L(n) (R167): from 1, doubled while L <= 2·n. It ends within `log2 n + 2` turns. -/
def paddedLength (n : Nat) : Nat := doubleUntil (Nat.log2 n + 3) n 1

/-- `STRIDE = (NN/2) / STEP` (20_memory.md R67, 40_complex_arith.md R115 (d)). -/
def tableStride (nn step : Nat) : Nat := nn / 2 / step

/-- The `table` form, `m = G · STRIDE` (20_memory.md R67). -/
def tableIndex {R : Type} (r : Regs R) : Nat := r.g * r.stride

/-- The `higher` form, `HI = LO + STEP` (20_memory.md R67). -/
def higherIndex {R : Type} (r : Regs R) : Nat := r.lo + r.step

/-- The `reflected` form, `L − K` (20_memory.md R67). -/
def reflectedIndex {R : Type} (r : Regs R) : Nat := r.l - r.k

/-! ## Complex working registers and operands of the primitives -/

/-- A Complex working register. -/
def Regs.cget {R : Type} (r : Regs R) : CReg → Cplx R
  | .w => r.w
  | .p => r.p
  | .t => r.t
  | .z => r.z

/-- `r` with a Complex working register written. -/
def Regs.cset {R : Type} (r : Regs R) (c : CReg) (v : Cplx R) : Regs R :=
  match c with
  | .w => { r with w := v }
  | .p => { r with p := v }
  | .t => { r with t := v }
  | .z => { r with z := v }

/-- The value of a primitive's operand (log 13). -/
def readOperand {R : Type} (nm : Num R) (o : COperand) (d : Datapath R) : Except Fault (Cplx R) :=
  match o with
  | .reg c => .ok (d.r.cget c)
  | .elem m k => memRead nm m k d

/-- A primitive's result put into its destination (log 13). -/
def writeOperand {R : Type} (o : COperand) (v : Cplx R) (d : Datapath R) : Except Fault (Datapath R) :=
  match o with
  | .reg c => .ok (d.withRegs (fun r => r.cset c v))
  | .elem m k => memWrite m k v d

/-! ## The host bus -/

/-- The `n` low bytes of a number, least significant first (20_memory.md R53). -/
def leBytes : Nat → Nat → List Byte
  | 0, _ => []
  | n + 1, x => BitVec.ofNat 8 x :: leBytes n (x / 256)

/-- The number whose bytes these are, least significant first. -/
def leNat : List Byte → Nat
  | [] => 0
  | b :: rest => b.toNat + 256 * leNat rest

/-- Where `x` stands in a list, counted from 0. -/
def placeOf (x : Nat) : List Nat → Option Nat
  | [] => none
  | y :: rest => if y = x then some 0 else (placeOf x rest).map (· + 1)

/-- Byte `j` of a number, the least significant byte first. -/
def byteOf (x j : Nat) : Byte := BitVec.ofNat 8 (x / 256 ^ j)

/-- The byte at offset `o` of an element's bus image (20_memory.md R53): a byte of the real part, a byte of the imaginary part,
or a free padding byte (log 19). -/
def layoutByte (lay : ElemLayout) (re im o : Nat) : Byte :=
  match placeOf o lay.re with
  | some j => byteOf re j
  | none =>
    match placeOf o lay.im with
    | some j => byteOf im j
    | none => Config.paddingByte re im o

/-- The bytes of an element on the host bus, in the layout `ELEM_LAYOUT` (R53). -/
def elemBytes {R : Type} (g : Image R) (lay : ElemLayout) (v : Cplx R) : List Byte :=
  (List.range lay.size).map (layoutByte lay (g.bits v.re) (g.bits v.im))

/-- The number whose bytes stand at these offsets, least significant first. -/
def gather (bs : List Byte) (places : List Nat) : Nat := leNat (places.map (fun o => bs.getD o 0))

/-- The element with these bytes in the layout `ELEM_LAYOUT`; padding bytes are ignored. -/
def elemOfBytes {R : Type} (g : Image R) (lay : ElemLayout) (bs : List Byte) : Cplx R :=
  ⟨g.ofBits (gather bs lay.re), g.ofBits (gather bs lay.im)⟩

/-- The bytes of a register word (R53). -/
def wordBytes (w : Word) : List Byte := leBytes 4 w.toNat

/-- The word with these 4 bytes. -/
def wordOfBytes (bs : List Byte) : Word := BitVec.ofNat 32 (leNat bs)

/-- What a bus access names. -/
inductive BusTarget where
  | reg  (r : Nat)
  | elem (k : Nat)
  deriving DecidableEq, Repr

/-- What an access of `len` bytes at byte address `a` names: register 0 or 1 whole at REG_BASE + 0x00 or + 0x04, element k
whole at DMEM_BASE + size·k, k < NMAX, size the layout's bytes per element (R52, R53); nothing otherwise (R54, R58). The width
tells a register access from an element access (log 19). -/
def busTarget (par : Params) (a len : Nat) : Option BusTarget :=
  if len = 4 ∧ a = par.regBase then some (.reg 0)
  else if len = 4 ∧ a = par.regBase + 4 then some (.reg 1)
  else if len = par.layout.size ∧ par.dmemBase ≤ a ∧ (a - par.dmemBase) % par.layout.size = 0 ∧
      (a - par.dmemBase) / par.layout.size < par.nmax then
    some (.elem ((a - par.dmemBase) / par.layout.size))
  else none

end Sys2Proof.Machine
end

