-- ==== Sys2Proof/Machine/ComplexArith.lean ====
section
/-! DEFINITION. The complex primitives (40_complex_arith.md R103 to R110) over any NUM, and the meanings of their rows. -/

namespace Sys2Proof.Machine

variable {R : Type}

/-- `czero = (rzero, rzero)` (R103). -/
def czero (nm : Num R) : Cplx R := ⟨nm.rzero, nm.rzero⟩

/-- `cadd` (R104): component-wise. -/
def cadd (nm : Num R) (a b : Cplx R) : Cplx R := ⟨nm.radd a.re b.re, nm.radd a.im b.im⟩

/-- `csub` (R105): component-wise. -/
def csub (nm : Num R) (a b : Cplx R) : Cplx R := ⟨nm.rsub a.re b.re, nm.rsub a.im b.im⟩

/-- `cmul` (R106): four products, one difference, one sum. -/
def cmul (nm : Num R) (a b : Cplx R) : Cplx R :=
  ⟨nm.rsub (nm.rmul a.re b.re) (nm.rmul a.im b.im), nm.radd (nm.rmul a.re b.im) (nm.rmul a.im b.re)⟩

/-- `conj` (R107). -/
def conj (nm : Num R) (a : Cplx R) : Cplx R := ⟨a.re, nm.rneg a.im⟩

/-- `cexp(s, p, q)` = exp(s·iπ·p/q) (R108). -/
def cexp (nm : Num R) (sg : Sign) (p q : Nat) : Cplx R :=
  match sg with
  | .pos => ⟨nm.rcospi p q, nm.rsinpi p q⟩
  | .neg => ⟨nm.rcospi p q, nm.rneg (nm.rsinpi p q)⟩

/-- `cdivn(z, L)` (R110): each component divided by the natural `L`. -/
def cdivn (nm : Num R) (z : Cplx R) (l : Nat) : Cplx R := ⟨nm.rdivn z.re l, nm.rdivn z.im l⟩

/-- `TWROM(n, s, m) = cexp(s, m, n/2)` (10_state.md R33). -/
def twrom (nm : Num R) (n : Nat) (sg : Sign) (m : Nat) : Cplx R := cexp nm sg m (n / 2)

/-- A primitive of two operands: both are read, then the result is written. -/
def prim2 (nm : Num R) (f : Cplx R → Cplx R → Cplx R) (dst a b : COperand) (d : Datapath R) :
    Except Fault (Datapath R) := do
  let x ← readOperand nm a d
  let y ← readOperand nm b d
  writeOperand dst (f x y) d

/-- A primitive of one operand. -/
def prim1 (nm : Num R) (f : Cplx R → Cplx R) (dst a : COperand) (d : Datapath R) : Except Fault (Datapath R) := do
  let x ← readOperand nm a d
  writeOperand dst (f x) d

def execCzero (dst : COperand) (s : State) : Out := onDatapath (writeOperand dst (czero numB64)) s

def execCadd (dst a b : COperand) (s : State) : Out := onDatapath (prim2 numB64 (cadd numB64) dst a b) s

def execCsub (dst a b : COperand) (s : State) : Out := onDatapath (prim2 numB64 (csub numB64) dst a b) s

def execCmul (dst a b : COperand) (s : State) : Out := onDatapath (prim2 numB64 (cmul numB64) dst a b) s

def execConj (dst a : COperand) (s : State) : Out := onDatapath (prim1 numB64 (conj numB64) dst a) s

def execCexp (dst : COperand) (sg : Sign) (p q : Nat) (s : State) : Out :=
  onDatapath (writeOperand dst (cexp numB64 sg p q)) s

def execCdivn (dst a : COperand) (l : Nat) (s : State) : Out :=
  onDatapath (prim1 numB64 (fun z => cdivn numB64 z l) dst a) s

end Sys2Proof.Machine
end

