-- ==== Sys2Proof/Machine/Permute.lean ====
section
/-! DEFINITION. The bit-reversal permuter: SWAP (41_permute.md R128) and BITREV (R127), over any NUM, and their meanings. -/

namespace Sys2Proof.Machine

variable {R : Type}

/-- `SWAP(M, a, b)` (R128): T <- M[a]; Z <- M[b]; M[a] <- Z; M[b] <- T. Both are read before either is written. -/
def swap (nm : Num R) (m : MemSel) (a b : Nat) (d : Datapath R) : Except Fault (Datapath R) := do
  let x ← memRead nm (memOf m) a d
  let y ← memRead nm (memOf m) b d
  let d1 ← memWrite (memOf m) a y (d.withRegs (fun r => { r with t := x, z := y }))
  memWrite (memOf m) b x d1

/-- Entry of BITREV(M, n): MSEL, NN, I <- 0, J <- 0. -/
def Regs.startPerm (m : MemSel) (n : Nat) (r : Regs R) : Regs R := { r with msel := m, nn := n, i := 0, j := 0 }

/-- The end of a turn of BITREV: the mirrored counter is advanced, then the position. -/
def Regs.nextPerm (r : Regs R) : Regs R :=
  { r with j := (mirrorAdvance r.nn r.j).1, msk := (mirrorAdvance r.nn r.j).2, i := r.i + 1 }

/-- One turn of the outer loop of BITREV. -/
def permTurn (nm : Num R) (d : Datapath R) : Except Fault (Datapath R) := do
  let d' ← if d.r.i < d.r.j then swap nm d.r.msel d.r.i d.r.j d else .ok d
  .ok (d'.withRegs Regs.nextPerm)

/-- `BITREV(M, n)` (R127). -/
def bitrev (nm : Num R) (m : MemSel) (n : Nat) (d : Datapath R) : Except Fault (Datapath R) :=
  repeatE (permTurn nm) n (d.withRegs (Regs.startPerm m n))

def execSwap (m : MemSel) (a b : Nat) (s : State) : Out := onDatapath (swap numB64 m a b) s

/-- A routine of length `n` as a meaning: it has none for a length that is no power of two (R131, log 15). -/
def onPow2 (n : Nat) (f : Datapath R → Except Fault (Datapath R)) (s : State.Of R) : Out R :=
  if isPow2 n then onDatapath f s else .refused .lengthNotPowerOfTwo

/-- BITREV (R127, R131). -/
def execBitrev (m : MemSel) (n : Nat) (s : State) : Out := onPow2 n (bitrev numB64 m n) s

end Sys2Proof.Machine
end

