-- ==== Sys2Proof/Machine/Pow2.lean ====
section
/-! DEFINITION. The power-of-two transform: TWLD (42_pow2_transform.md R143), BFLY (R147), STAGES (R145), FFT2 (R141), over any
NUM, and their meanings. -/

namespace Sys2Proof.Machine

variable {R : Type}

/-- `TWLD` (R143): W <- TWROM(NN, SS, G · STRIDE). -/
def twld (nm : Num R) (d : Datapath R) : Except Fault (Datapath R) :=
  .ok (d.withRegs (fun r => { r with w := twrom nm r.nn r.ss (tableIndex r) }))

/-- `BFLY(M, lo, hi, W)` (R147): P <- W·M[hi]; T <- M[lo]; M[hi] <- T − P; M[lo] <- T + P. The twiddle factor is the left
operand of the product. Both elements are read before either is written. -/
def bfly (nm : Num R) (m : MemSel) (lo hi : Nat) (d : Datapath R) : Except Fault (Datapath R) := do
  let h ← memRead nm (memOf m) hi d
  let t ← memRead nm (memOf m) lo d
  let p := cmul nm d.r.w h
  let d1 ← memWrite (memOf m) hi (csub nm t p) (d.withRegs (fun r => { r with p := p, t := t }))
  memWrite (memOf m) lo (cadd nm t p) d1

/-- Entry of STAGES: STEP <- 1. -/
def Regs.startStages (r : Regs R) : Regs R := { r with step := 1 }

/-- Start of a stage: STRIDE <- (NN/2) / STEP, G <- 0. -/
def Regs.startStage (r : Regs R) : Regs R := { r with stride := tableStride r.nn r.step, g := 0 }

/-- After the TWLD of a group: LO <- G. -/
def Regs.startGroup (r : Regs R) : Regs R := { r with lo := r.g }

/-- Start of a pair: HI <- LO + STEP. -/
def Regs.startPair (r : Regs R) : Regs R := { r with hi := higherIndex r }

/-- After a pair: LO <- LO + 2·STEP. -/
def Regs.nextPair (r : Regs R) : Regs R := { r with lo := r.lo + 2 * r.step }

/-- After a group: G <- G + 1. -/
def Regs.nextGroup (r : Regs R) : Regs R := { r with g := r.g + 1 }

/-- After a stage: STEP <- 2·STEP. -/
def Regs.nextStage (r : Regs R) : Regs R := { r with step := 2 * r.step }

/-- The pair loop of R145, `while LO < n`; `fuel` bounds its turns. -/
def pairLoop (nm : Num R) : Nat → Datapath R → Except Fault (Datapath R)
  | 0, d => .ok d
  | fuel + 1, d =>
    if d.r.lo < d.r.nn then do
      let d1 := d.withRegs Regs.startPair
      let d2 ← bfly nm d1.r.msel d1.r.lo d1.r.hi d1
      pairLoop nm fuel (d2.withRegs Regs.nextPair)
    else .ok d

/-- One turn of the group loop of R145: TWLD, the pairs, G + 1. LO rises by at least 2 in a turn of the pair loop, so NN turns
are enough. -/
def groupTurn (nm : Num R) (d : Datapath R) : Except Fault (Datapath R) := do
  let d1 ← twld nm d
  let d2 ← pairLoop nm d1.r.nn (d1.withRegs Regs.startGroup)
  .ok (d2.withRegs Regs.nextGroup)

/-- The stage loop of R145, `while STEP < n`; `fuel` bounds its turns. -/
def stageLoop (nm : Num R) : Nat → Datapath R → Except Fault (Datapath R)
  | 0, d => .ok d
  | fuel + 1, d =>
    if d.r.step < d.r.nn then do
      let d1 := d.withRegs Regs.startStage
      let d2 ← repeatE (groupTurn nm) d1.r.step d1
      stageLoop nm fuel (d2.withRegs Regs.nextStage)
    else .ok d

/-- Entry of a power-of-two routine: MSEL, NN, SS. -/
def Regs.enterPow2 (m : MemSel) (n : Nat) (sg : Sign) (r : Regs R) : Regs R := { r with msel := m, nn := n, ss := sg }

/-- `STAGES(M, n, s)` (R145). STEP doubles in a turn of the stage loop, so `log2 n + 1` turns are enough. -/
def stages (nm : Num R) (m : MemSel) (n : Nat) (sg : Sign) (d : Datapath R) : Except Fault (Datapath R) :=
  stageLoop nm (Nat.log2 n + 1) (d.withRegs (fun r => (r.enterPow2 m n sg).startStages))

/-- `FFT2(M, n, s)` (R141): BITREV, then STAGES; no final scaling. -/
def fft2 (nm : Num R) (m : MemSel) (n : Nat) (sg : Sign) (d : Datapath R) : Except Fault (Datapath R) := do
  let d1 ← bitrev nm m n (d.withRegs (Regs.enterPow2 m n sg))
  stages nm m n sg d1

def execTwld (s : State) : Out := onDatapath (twld numB64) s

def execBfly (m : MemSel) (lo hi : Nat) (s : State) : Out := onDatapath (bfly numB64 m lo hi) s

/-- STAGES runs at a power of two (R145, R131; log 15). -/
def execStages (m : MemSel) (n : Nat) (sg : Sign) (s : State) : Out := onPow2 n (stages numB64 m n sg) s

/-- FFT2 runs at a power of two (R141, R131; log 15). -/
def execFft2 (m : MemSel) (n : Nat) (sg : Sign) (s : State) : Out := onPow2 n (fft2 numB64 m n sg) s

end Sys2Proof.Machine
end

