-- ==== Sys2Proof/Machine/General.lean ====
section
/-! DEFINITION. The Bluestein reduction: LCALC (43_general_transform.md R167), CHIRPGEN (R170), CMOD (R172), BKERN (R174), PMUL
(R176), WBACK (R178), over any NUM, and their meanings; and the whole dataflow of each command as one function (00_scope.md R17,
70_reset_and_hazards.md R232). -/

namespace Sys2Proof.Machine

variable {R : Type}

/-- `LCALC` (R167): L <- L(N). -/
def lcalc (d : Datapath R) : Except Fault (Datapath R) :=
  .ok (d.withRegs (fun r => { r with l := paddedLength r.n }))

/-- `CHIRPGEN` (R170): CHTAB[K] <- cexp(S, K·K, N). -/
def chirpgen (nm : Num R) (d : Datapath R) : Except Fault (Datapath R) :=
  memWrite .chtab d.r.k (cexp nm d.r.s (d.r.k * d.r.k) d.r.n) d

/-- Z <- v, then M[K] <- Z: the end of CMOD, BKERN and PMUL. -/
def writeZ (m : MemId) (v : Cplx R) (d : Datapath R) : Except Fault (Datapath R) :=
  memWrite m d.r.k v (d.withRegs (fun r => { r with z := v }))

/-- `CMOD` (R172): Z <- CHTAB[K]·DMEM[K] if K < N, else czero; AMEM[K] <- Z. The chirp factor is the left operand. -/
def cmod (nm : Num R) (d : Datapath R) : Except Fault (Datapath R) :=
  if d.r.k < d.r.n then do
    let c ← memRead nm .chtab d.r.k d
    let x ← memRead nm .dmem d.r.k d
    writeZ .amem (cmul nm c x) d
  else writeZ .amem (czero nm) d

/-- `BKERN` (R174): Z <- CHTAB[0], conj CHTAB[K], conj CHTAB[L − K] or czero; BMEM[K] <- Z. -/
def bkern (nm : Num R) (d : Datapath R) : Except Fault (Datapath R) :=
  if d.r.k = 0 then do
    let c ← memRead nm .chtab 0 d
    writeZ .bmem c d
  else if d.r.k < d.r.n then do
    let c ← memRead nm .chtab d.r.k d
    writeZ .bmem (conj nm c) d
  else if d.r.l - d.r.n < d.r.k then do
    let c ← memRead nm .chtab (reflectedIndex d.r) d
    writeZ .bmem (conj nm c) d
  else writeZ .bmem (czero nm) d

/-- `PMUL` (R176): Z <- AMEM[K]·BMEM[K]; AMEM[K] <- Z. AMEM[K] is the left operand. -/
def pmul (nm : Num R) (d : Datapath R) : Except Fault (Datapath R) := do
  let a ← memRead nm .amem d.r.k d
  let b ← memRead nm .bmem d.r.k d
  writeZ .amem (cmul nm a b) d

/-- `WBACK` (R178): Z <- AMEM[K]·CHTAB[K]; DMEM[K] <- Z / L. The product is formed first. -/
def wback (nm : Num R) (d : Datapath R) : Except Fault (Datapath R) := do
  let a ← memRead nm .amem d.r.k d
  let c ← memRead nm .chtab d.r.k d
  let z := cmul nm a c
  memWrite .dmem d.r.k (cdivn nm z d.r.l) (d.withRegs (fun r => { r with z := z }))

def execLcalc (s : State) : Out := onDatapath lcalc s

def execChirpgen (s : State) : Out := onDatapath (chirpgen numB64) s

def execCmod (s : State) : Out := onDatapath (cmod numB64) s

def execBkern (s : State) : Out := onDatapath (bkern numB64) s

def execPmul (s : State) : Out := onDatapath (pmul numB64) s

def execWback (s : State) : Out := onDatapath (wback numB64) s

/-! ## The dataflow of a whole command -/

/-- Entry of a K loop: K <- 0. -/
def Regs.startK (r : Regs R) : Regs R := { r with k := 0 }

/-- The end of a turn of a K loop: K <- K + 1. -/
def Regs.nextK (r : Regs R) : Regs R := { r with k := r.k + 1 }

/-- `op for K = 0 .. count−1` (R165). -/
def kLoop (op : Datapath R → Except Fault (Datapath R)) (count : Nat) (d : Datapath R) : Except Fault (Datapath R) :=
  repeatE (fun x => do let y ← op x; .ok (y.withRegs Regs.nextK)) count (d.withRegs Regs.startK)

/-- The dataflow of PERMUTE with N in its register (41_permute.md R125). -/
def permuteFlow (nm : Num R) (d : Datapath R) : Except Fault (Datapath R) := bitrev nm .dmem d.r.n d

/-- The dataflow of XFORM_POW2 with N and S in their registers (42_pow2_transform.md R140). -/
def pow2Flow (nm : Num R) (d : Datapath R) : Except Fault (Datapath R) := fft2 nm .dmem d.r.n d.r.s d

/-- The dataflow of XFORM_GEN with N and S in their registers (43_general_transform.md R165). -/
def genFlow (nm : Num R) (d : Datapath R) : Except Fault (Datapath R) := do
  let d1 ← lcalc d
  let d2 ← kLoop (chirpgen nm) d1.r.n d1
  let d3 ← kLoop (cmod nm) d2.r.l d2
  let d4 ← kLoop (bkern nm) d3.r.l d3
  let d5 ← fft2 nm .amem d4.r.l .neg d4
  let d6 ← fft2 nm .bmem d5.r.l .neg d5
  let d7 ← kLoop (pmul nm) d6.r.l d6
  let d8 ← fft2 nm .amem d7.r.l .pos d7
  kLoop (wback nm) d8.r.n d8

end Sys2Proof.Machine
end

