-- ==== Sys2Proof/Machine/Sequencer.lean ====
section
/-! DEFINITION. The hardwired sequencer (10_state.md R26, R27): which micro-operation comes next, and how SEQ and the loop registers
advance after it. The loops are those of 41_permute.md R127, 42_pow2_transform.md R145 and 43_general_transform.md R165. -/

namespace Sys2Proof.Machine

variable {R : Type}

/-- `s` with its working registers changed. -/
def State.Of.withRegs (s : State.Of R) (f : Regs R → Regs R) : State.Of R := { s with dp := s.dp.withRegs f }

/-- Entry of a phase whose routine is BITREV or FFT2: the routine starts with the turns of BITREV. -/
def startPerm (ph : Phase) (m : MemSel) (n : Nat) (s : State.Of R) : State.Of R :=
  { s.withRegs (Regs.startPerm m n) with seq := ph, upos := .perm }

/-- Entry of a phase whose routine is FFT2(M, n, sg). -/
def startFft (ph : Phase) (m : MemSel) (n : Nat) (sg : Sign) (s : State.Of R) : State.Of R :=
  startPerm ph m n (s.withRegs (Regs.enterPow2 m n sg))

/-- Entry of a phase that is a loop over K. -/
def startKPhase (ph : Phase) (s : State.Of R) : State.Of R :=
  { s.withRegs Regs.startK with seq := ph, upos := .single }

/-- The first phase of a command, from `OPC` (R27): PERMUTE P_PERM, XFORM_POW2 T_PERM, XFORM_GEN G_LCALC. -/
def startCommand (s : State.Of R) : State.Of R :=
  if s.dp.r.opc = 0#2 then startPerm .pPerm .dmem s.dp.r.n s
  else if s.dp.r.opc = 1#2 then startFft .tPerm .dmem s.dp.r.n s.dp.r.s s
  else { s with seq := .gLcalc, upos := .single }

/-- The routine of the phase has ended: the next phase of the same command in the order of R27, or item DONE. -/
def endPhase (s : State.Of R) : State.Of R :=
  match s.seq with
  | .idle => s
  | .pPerm => completeCommand s
  | .tPerm => completeCommand s
  | .tStages => completeCommand s
  | .gLcalc => startKPhase .gChirp s
  | .gChirp => startKPhase .gCmod s
  | .gCmod => startKPhase .gBkern s
  | .gBkern => startFft .gFfta .amem s.dp.r.l .neg s
  | .gFfta => startFft .gFftb .bmem s.dp.r.l .neg s
  | .gFftb => startKPhase .gPmul s
  | .gPmul => startFft .gIffta .amem s.dp.r.l .pos s
  | .gIffta => startKPhase .gWback s
  | .gWback => completeCommand s

/-- The test `while STEP < n` of R145: a stage starts, or STAGES has ended. -/
def stageTest (s : State.Of R) : State.Of R :=
  if s.dp.r.step < s.dp.r.nn then { s.withRegs Regs.startStage with upos := .twld } else endPhase s

/-- BITREV has ended: PERMUTE is done; XFORM_POW2 moves from T_PERM to T_STAGES; inside XFORM_GEN the FFT2 of the phase goes on
with its stages (R26). -/
def endPerm (s : State.Of R) : State.Of R :=
  match s.seq with
  | .pPerm => endPhase s
  | .tPerm => stageTest { s.withRegs Regs.startStages with seq := .tStages }
  | _ => stageTest (s.withRegs Regs.startStages)

/-- After a turn of BITREV. -/
def advancePerm (s : State.Of R) : State.Of R :=
  let s' := s.withRegs Regs.nextPerm
  if s'.dp.r.i < s'.dp.r.nn then s' else endPerm s'

/-- After a TWLD: the first pair of the group. -/
def advanceTwld (s : State.Of R) : State.Of R :=
  { s.withRegs (fun r => r.startGroup.startPair) with upos := .bfly }

/-- After a group: the next group of the stage, or the next stage. -/
def advanceGroup (s : State.Of R) : State.Of R :=
  let s' := s.withRegs Regs.nextGroup
  if s'.dp.r.g < s'.dp.r.step then { s' with upos := .twld } else stageTest (s'.withRegs Regs.nextStage)

/-- After a BFLY: the next pair of the group, or the next group. -/
def advanceBfly (s : State.Of R) : State.Of R :=
  let s' := s.withRegs Regs.nextPair
  if s'.dp.r.lo < s'.dp.r.nn then s'.withRegs Regs.startPair else advanceGroup s'

/-- After the micro-operation of a loop `K = 0 .. count−1`. -/
def advanceK (count : Nat) (s : State.Of R) : State.Of R :=
  let s' := s.withRegs Regs.nextK
  if s'.dp.r.k < count then s' else endPhase s'

/-- After a micro-operation of BITREV or STAGES. -/
def advanceRoutine (s : State.Of R) : State.Of R :=
  match s.upos with
  | .single => s
  | .perm => advancePerm s
  | .twld => advanceTwld s
  | .bfly => advanceBfly s

/-- How SEQ and the loop registers advance after the micro-operation of `microOp` (R27). -/
def advancePhase (s : State.Of R) : State.Of R :=
  match s.seq with
  | .idle => s
  | .pPerm => advanceRoutine s
  | .tPerm => advanceRoutine s
  | .tStages => advanceRoutine s
  | .gFfta => advanceRoutine s
  | .gFftb => advanceRoutine s
  | .gIffta => advanceRoutine s
  | .gLcalc => endPhase s
  | .gChirp => advanceK s.dp.r.n s
  | .gCmod => advanceK s.dp.r.l s
  | .gBkern => advanceK s.dp.r.l s
  | .gPmul => advanceK s.dp.r.l s
  | .gWback => advanceK s.dp.r.n s

/-- While PFAULT = 1 every step of the sequencer draws new free values for DMEM (log 8). -/
def redraw (s : State.Of R) : State.Of R :=
  if s.dp.pfault then { s with dp := { s.dp with draws := s.dp.draws + 1 } } else s

/-- Everything a sequencer step does after its micro-operation. -/
def advance (s : State.Of R) : State.Of R := redraw (advancePhase s)

/-- The micro-operation of BITREV or STAGES that comes next; a turn of BITREV with J <= I has none. -/
def routineOp (s : State.Of R) : Option Instr :=
  match s.upos with
  | .single => none
  | .perm => if s.dp.r.i < s.dp.r.j then some (.swap s.dp.r.msel s.dp.r.i s.dp.r.j) else none
  | .twld => some .twld
  | .bfly => some (.bfly s.dp.r.msel s.dp.r.lo s.dp.r.hi)

/-- The micro-operation the sequencer performs next (R27). -/
def microOp (s : State.Of R) : Option Instr :=
  match s.seq with
  | .idle => none
  | .pPerm => routineOp s
  | .tPerm => routineOp s
  | .tStages => routineOp s
  | .gFfta => routineOp s
  | .gFftb => routineOp s
  | .gIffta => routineOp s
  | .gLcalc => some .lcalc
  | .gChirp => some .chirpgen
  | .gCmod => some .cmod
  | .gBkern => some .bkern
  | .gPmul => some .pmul
  | .gWback => some .wback

end Sys2Proof.Machine
end

