-- ==== Sys2Proof/Machine/Commands.lean ====
section
/-! DEFINITION. The commands: acceptance and its checks (60_exceptions.md R197), and the meanings of the format-C rows and of the
pseudo-instructions. -/

namespace Sys2Proof.Machine

/-- The sign of a direction bit (00_scope.md R12): INV = 1 is +1, INV = 0 is −1. -/
def signOf (inv : Bool) : Sign := if inv then .pos else .neg

/-- Step 8 of R197: `OPC`, `N`, `S` are latched from `CMDL`, BUSY <- 1, SEQ moves to the first phase. -/
def acceptCommand {R : Type} (s : State.Of R) : State.Of R :=
  startCommand
    { s.withRegs (fun r =>
        { r with opc := BitVec.ofNat 2 (opField s.cmdl), n := lenField s.cmdl, s := signOf (invField s.cmdl) })
      with busy := true }

/-- Steps 5 to 8 of R197 for the legal word in `CMDL`: degenerate length (R200), ERR_LEN (R201), ERR_CAP (R199), acceptance. -/
def checkCommand {R : Type} (s : State.Of R) : State.Of R :=
  let n := lenField s.cmdl
  let gen := opField s.cmdl = 2
  if n ≤ 1 then completeCommand s
  else if ¬ gen ∧ isPow2 n = false then errorCompletion .len s
  else if s.dp.par.nmax < n ∨ (gen ∧ s.dp.par.lmax < paddedLength n) then errorCompletion .cap s
  else acceptCommand s

/-- A legal command word is written to CMD. -/
def issueLegal {R : Type} (w : Word) (s : State.Of R) : Out R := issueCommand w checkCommand s

/-- `PERMUTE n` (41_permute.md R125): the write of its word to CMD. -/
def execPermute (n : Nat) (s : State) : Out := issueLegal (assemble n 0 false 0) s

/-- `XFORM_POW2 n, inv` (42_pow2_transform.md R140): the write of its word to CMD. -/
def execXformPow2 (n : Nat) (inv : Bool) (s : State) : Out := issueLegal (assemble n 0 inv 1) s

/-- `XFORM_GEN n, inv` (43_general_transform.md R165): the write of its word to CMD. -/
def execXformGen (n : Nat) (inv : Bool) (s : State) : Out := issueLegal (assemble n 0 inv 2) s

/-- `RESERVED_OP3` (30_encoding.md R80 (a)): ERR_ILLEGAL. -/
def execReservedOp3 (len rsv : Nat) (inv : Bool) (s : State) : Out := issueIllegal (assemble len rsv inv 3) s

/-- `ILLEGAL_PERMUTE_INV` (30_encoding.md R80 (c)): ERR_ILLEGAL. -/
def execIllegalPermuteInv (len : Nat) (s : State) : Out := issueIllegal (assemble len 0 true 0) s

/-- `FFT n` = `XFORM_GEN n, FWD` (30_encoding.md R83). -/
def execFft (n : Nat) (s : State) : Out := issueLegal (assemble n 0 false 2) s

/-- `IFFT n` = `XFORM_GEN n, INV` (30_encoding.md R83). -/
def execIfft (n : Nat) (s : State) : Out := issueLegal (assemble n 0 true 2) s

end Sys2Proof.Machine
end

