-- ==== Sys2Proof/Machine/HostPort.lean ====
section
/-! DEFINITION. The host's accesses (60_exceptions.md R210, 20_memory.md R63), its register and bus accesses (10_state.md R21, R22,
20_memory.md R52 to R54), and reset (70_reset_and_hazards.md R225). -/

namespace Sys2Proof.Machine

variable {R : Type}

/-- `HostWrite(k, v)` (R63, R210): DMEM[k] <- v while BUSY = 0; a protocol fault while BUSY = 1 (R206). -/
def hostWrite (k : Nat) (v : Cplx R) (s : State.Of R) : Out R :=
  if s.dp.par.nmax ≤ k then .refused .noSuchElement
  else if s.busy then .next (protocolFault s)
  else onDatapath (memWrite .dmem k v) s

/-- The answer of a host read of an element, in the form the host asked for. -/
def elemAnswer (cf : Setup R) (lay : ElemLayout) (asBytes : Bool) (v : Cplx R) : HostData R :=
  if asBytes then .bytes (elemBytes cf.image lay v) else .elem v

/-- `HostRead(k)` (R63, R210): returns DMEM[k] while BUSY = 0, faults on an unwritten element (R57). While BUSY = 1 it is a
protocol fault and the value returned is free (R206). After a protocol fault the contents are free, and the next read draws
anew. -/
def hostRead (cf : Setup R) (asBytes : Bool) (k : Nat) (s : State.Of R) : Out R :=
  if s.dp.par.nmax ≤ k then .refused .noSuchElement
  else if s.busy then
    .next { protocolFault s with rdata := elemAnswer cf s.dp.par.layout asBytes (freeElem cf.num s.dp.draws k) }
  else
    match memRead cf.num .dmem k s.dp with
    | .ok v => .next { redraw s with rdata := elemAnswer cf s.dp.par.layout asBytes v }
    | .error e => .fault e

/-- The answer of a host read of a register, in the form the host asked for. -/
def wordAnswer (asBytes : Bool) (w : Word) : HostData R := if asBytes then .bytes (wordBytes w) else .word w

/-- A host read of a register: CMD reads 0, STATUS reads its word; neither has an effect on the core (R21, R22). -/
def readRegister (asBytes : Bool) (r : Nat) (s : State.Of R) : Out R :=
  if r = 0 then .next { s with rdata := wordAnswer asBytes 0#32 }
  else if r = 1 then .next { s with rdata := wordAnswer asBytes (statusWord s) }
  else .refused .noSuchRegister

/-- A host write of a register other than CMD: a write of STATUS is ignored (R22). -/
def writeOtherRegister (r : Nat) (s : State.Of R) : Out R := if r = 1 then .next s else .refused .noSuchRegister

/-- `WAIT` has read BUSY = 0: it yields the STATUS word (30_encoding.md R83). -/
def endWait (s : State.Of R) : State.Of R := { s with rdata := .word (statusWord s) }

/-- Reset (R225, R226): every piece of the core's state takes its reset value. The parameters are no state, and the host keeps
its script and what it has read; the counter of free values goes on (log 8), and so does the mark of a faulty run (log 25). -/
def applyReset (nm : Num R) (s : State.Of R) : State.Of R :=
  { State.Of.resetWith (czero nm) with
    dp := { Datapath.resetWith (czero nm) with par := s.dp.par, draws := s.dp.draws }, faulty := s.faulty,
    script := s.script, rdata := s.rdata }

/-- A bus write as the register or element write it is (R52 to R54). -/
def resolveBusWrite (cf : Setup R) (par : Params) (a : Nat) (bs : List Byte) : Except Refusal (HostMove R) :=
  match busTarget par a bs.length with
  | some (.reg r) => .ok (.regWrite r (wordOfBytes bs))
  | some (.elem k) => .ok (.hwrite k (elemOfBytes cf.image par.layout bs))
  | none => .error .partialAccess

/-- A bus read (R52 to R54): the answer comes as bytes. -/
def busRead (cf : Setup R) (a len : Nat) (s : State.Of R) : Out R :=
  match busTarget s.dp.par a len with
  | some (.reg r) => readRegister true r s
  | some (.elem k) => hostRead cf true k s
  | none => .refused .partialAccess

end Sys2Proof.Machine
end

