-- ==== Sys2Proof/Machine/Perform.lean ====
section
/-! DEFINITION. The machine at any configuration (00_scope.md R7, R18; 40_complex_arith.md R100): what each instruction does at any
NUM, and one step of the machine around whatever executes the instructions. `exec` and `step` are these at NUM_b64 (log 2). -/

namespace Sys2Proof.Machine

variable {R : Type}

/-- What each instruction does at the numerics `nm`: the same datapath operations that `exec`'s arms call at `numB64`. -/
def perform (nm : Num R) (i : Instr) (s : State.Of R) : Out R :=
  match i with
  | .permute n => issueLegal (assemble n 0 false 0) s
  | .xformPow2 n inv => issueLegal (assemble n 0 inv 1) s
  | .xformGen n inv => issueLegal (assemble n 0 inv 2) s
  | .reservedOp3 len rsv inv => issueIllegal (assemble len rsv inv 3) s
  | .illegalPermuteInv len => issueIllegal (assemble len 0 true 0) s
  | .swap m a b => onDatapath (swap nm m a b) s
  | .bitrev m n => onPow2 n (bitrev nm m n) s
  | .twld => onDatapath (twld nm) s
  | .bfly m lo hi => onDatapath (bfly nm m lo hi) s
  | .stages m n sg => onPow2 n (stages nm m n sg) s
  | .fft2 m n sg => onPow2 n (fft2 nm m n sg) s
  | .lcalc => onDatapath lcalc s
  | .chirpgen => onDatapath (chirpgen nm) s
  | .cmod => onDatapath (cmod nm) s
  | .bkern => onDatapath (bkern nm) s
  | .pmul => onDatapath (pmul nm) s
  | .wback => onDatapath (wback nm) s
  | .czero d => onDatapath (writeOperand d (czero nm)) s
  | .cadd d a b => onDatapath (prim2 nm (cadd nm) d a b) s
  | .csub d a b => onDatapath (prim2 nm (csub nm) d a b) s
  | .cmul d a b => onDatapath (prim2 nm (cmul nm) d a b) s
  | .conj d a => onDatapath (prim1 nm (conj nm) d a) s
  | .cexp d sg p q => onDatapath (writeOperand d (cexp nm sg p q)) s
  | .cdivn d a l => onDatapath (prim1 nm (fun z => cdivn nm z l) d a) s
  | .fft n => issueLegal (assemble n 0 false 2) s
  | .ifft n => issueLegal (assemble n 0 true 2) s

/-- The sequencer performs its next micro-operation by `ex` and advances (10_state.md R27). With BUSY = 0 it does nothing. -/
def coreStepBy (ex : Instr → State.Of R → Out R) (s : State.Of R) : Out R :=
  if s.busy then
    match microOp s with
    | some i =>
      match ex i s with
      | .next s' => .next (advance s')
      | .fault r => .fault r
      | .refused r => .refused r
    | none => .next (advance s)
  else .next s

/-- The word `w` is written to CMD (60_exceptions.md R197): the command it decodes to is executed by `ex`; a word the decoder
rejects is illegal (30_encoding.md R76 step 2). -/
def commandWriteBy (ex : Instr → State.Of R → Out R) (w : Word) (s : State.Of R) : Out R :=
  match decode w with
  | .ok i => ex i s
  | .error _ => issueIllegal w s

/-- A register write of the host (10_state.md R21, R22). -/
def registerWriteBy (ex : Instr → State.Of R → Out R) (r : Nat) (w : Word) (s : State.Of R) : Out R :=
  if r = 0 then commandWriteBy ex w s else writeOtherRegister r s

/-- A move of the host made at `s`, whose script no longer holds it. -/
def hostMoveBy (ex : Instr → State.Of R → Out R) (cf : Setup R) (m : HostMove R) (s : State.Of R) : Out R :=
  match m with
  | .hwrite k v => hostWrite k v s
  | .hread k => hostRead cf false k s
  | .regWrite r w => registerWriteBy ex r w s
  | .regRead r => readRegister false r s
  | .busWrite a bs =>
    match resolveBusWrite cf s.dp.par a bs with
    | .ok (.regWrite r w) => registerWriteBy ex r w s
    | .ok (.hwrite k v) => hostWrite k v s
    | .ok _ => .refused .partialAccess
    | .error e => .refused e
  | .busRead a len => busRead cf a len s
  | .wait => .next (endWait s)
  | .tick => coreStepBy ex s
  | .reset => .next (applyReset cf.num s)

/-- WAIT is the host's next move: it does nothing but read STATUS until BUSY = 0 (30_encoding.md R83). -/
def waits (m : HostMove R) : Bool :=
  match m with
  | .wait => true
  | _ => false

/-- One step (log 10). With no host move left the sequencer steps while BUSY = 1, and an idle core stays as it is
(60_exceptions.md R210). WAIT lets the sequencer step until BUSY = 0. Every other move is made at once. -/
def stepBy (ex : Instr → State.Of R → Out R) (cf : Setup R) (s : State.Of R) : Out R :=
  match s.script with
  | [] => coreStepBy ex s
  | m :: rest => if waits m && s.busy then coreStepBy ex s else hostMoveBy ex cf m { s with script := rest }

/-- The machine at the configuration `cf`. -/
def machineOf (cf : Setup R) : Host.Core :=
  { State := State.Of R, Fault := Fault, Refusal := Refusal, step := stepBy (perform cf.num) cf,
    reset := State.Of.resetWith (czero cf.num) }

end Sys2Proof.Machine
end

