-- ==== Sys2Proof/Machine/Dispatch.lean ====
section
/-! DEFINITION. exec: one arm per row of the opcode table. -/

namespace Sys2Proof.Machine

def exec (i : Instr) (s : State) : Host.Outcome State Fault Refusal :=
  match i with
  -- commands (41, 42, 43) and the illegal rows (30_encoding.md R80)
  | .permute n => Sys2Proof.Machine.execPermute n s
  | .xformPow2 n inv => Sys2Proof.Machine.execXformPow2 n inv s
  | .xformGen n inv => Sys2Proof.Machine.execXformGen n inv s
  | .reservedOp3 len rsv inv => Sys2Proof.Machine.execReservedOp3 len rsv inv s
  | .illegalPermuteInv len => Sys2Proof.Machine.execIllegalPermuteInv len s
  -- micro-operations and routines (30_encoding.md R86)
  | .swap m a b => Sys2Proof.Machine.execSwap m a b s
  | .bitrev m n => Sys2Proof.Machine.execBitrev m n s
  | .twld => Sys2Proof.Machine.execTwld s
  | .bfly m lo hi => Sys2Proof.Machine.execBfly m lo hi s
  | .stages m n sg => Sys2Proof.Machine.execStages m n sg s
  | .fft2 m n sg => Sys2Proof.Machine.execFft2 m n sg s
  | .lcalc => Sys2Proof.Machine.execLcalc s
  | .chirpgen => Sys2Proof.Machine.execChirpgen s
  | .cmod => Sys2Proof.Machine.execCmod s
  | .bkern => Sys2Proof.Machine.execBkern s
  | .pmul => Sys2Proof.Machine.execPmul s
  | .wback => Sys2Proof.Machine.execWback s
  -- primitives (40_complex_arith.md R103 to R110)
  | .czero d => Sys2Proof.Machine.execCzero d s
  | .cadd d a b => Sys2Proof.Machine.execCadd d a b s
  | .csub d a b => Sys2Proof.Machine.execCsub d a b s
  | .cmul d a b => Sys2Proof.Machine.execCmul d a b s
  | .conj d a => Sys2Proof.Machine.execConj d a s
  | .cexp d sg p q => Sys2Proof.Machine.execCexp d sg p q s
  | .cdivn d a l => Sys2Proof.Machine.execCdivn d a l s
  -- pseudo-instructions (30_encoding.md R83)
  | .fft n => Sys2Proof.Machine.execFft n s
  | .ifft n => Sys2Proof.Machine.execIfft n s

end Sys2Proof.Machine
end

