-- ==== Sys2Proof/Machine/Step.lean ====
section
/-! DEFINITION. One step of the machine: the next move of the host's script, or the next micro-operation of the sequencer, its
instructions executed by `exec`. -/

namespace Sys2Proof.Machine

/-- The sequencer performs its next micro-operation and advances (10_state.md R27). -/
def coreStep (s : State) : Out := coreStepBy exec s

/-- The word `w` is written to CMD (60_exceptions.md R197). -/
def commandWrite (w : Word) (s : State) : Out := commandWriteBy exec w s

/-- One step (log 10). -/
def step (s : State) : Host.Outcome State Fault Refusal := stepBy exec setupB64 s

/-- `s` with the command word whose low `nbits` bits are `w` as the host's next move, a write to CMD: the core fetches no
instructions, a command comes from the host (20_memory.md R65, log 10). -/
def State.withFetchWord (s : State) (nbits w : Nat) : State :=
  { s with script := .regWrite 0 (tableWord nbits w) :: s.script }

end Sys2Proof.Machine
end

