-- ==== Sys2Proof/Machine/Reference.lean ====
section
/-! DEFINITION. The reference numerics `NUM_exact` (40_complex_arith.md R101), in which the spec states its correctness rules, and the
transforms those rules name (00_scope.md R13). The machine never runs with it: it is a second instance of the record the same
datapath definitions take. -/

namespace Sys2Proof.Machine

/-- `NUM_exact` (R101): the mathematical reals. `rdraw` is whatever the caller gives: it stands for unspecified values only. -/
noncomputable def numExact (draw : Nat → Nat → Nat → ℝ) : Num ℝ :=
  { rzero := 0, radd := fun x y => x + y, rsub := fun x y => x - y, rmul := fun x y => x * y, rneg := fun x => -x,
    rdivn := fun x l => x / (l : ℝ), rcospi := fun p q => Real.cos (Real.pi * p / q),
    rsinpi := fun p q => Real.sin (Real.pi * p / q), rdraw := draw }

/-- A pair of reals as a complex number. -/
noncomputable def Cplx.toC (z : Cplx ℝ) : ℂ := ⟨z.re, z.im⟩

/-- The sign as a real number (00_scope.md R12). -/
noncomputable def signReal : Sign → ℝ
  | .neg => -1
  | .pos => 1

/-- exp(s·2πi·a/n). -/
noncomputable def rootPower (sg : Sign) (n a : Nat) : ℂ :=
  Complex.exp (signReal sg * 2 * Real.pi * Complex.I * a / n)

/-- The unnormalised transform of R13 at index `j`: Σ_{k<n} x[k]·exp(s·2πi·jk/n). -/
noncomputable def dft (sg : Sign) (n : Nat) (x : Nat → ℂ) (j : Nat) : ℂ :=
  ∑ k ∈ Finset.range n, x k * rootPower sg n (j * k)

/-- The elements `0 .. n−1` of a memory over the reals are the numbers `x 0 .. x (n−1)`. -/
def holds (m : Mem ℝ) (n : Nat) (x : Nat → ℂ) : Prop :=
  ∀ k, k < n → ∃ v, Mem.get m k = some v ∧ v.toC = x k

end Sys2Proof.Machine
end

