-- ==== Sys2Proof/Safety.lean ====
section
/-! DEFINITION. What counts as a good state: the canonical form of the memories, the legal values of STATUS (10_state.md R22), and
where the sequencer stands (R26, R27; 41_permute.md R129; 42_pow2_transform.md R143 to R145; 20_memory.md R58). -/

namespace Sys2Proof.Machine

/-- A layout gives each component of `c` bytes its own places among the element's bytes (20_memory.md R53). -/
abbrev layoutWf (c : Nat) (l : ElemLayout) : Prop :=
  l.re.length = c ∧ l.im.length = c ∧ (l.re ++ l.im).Nodup ∧ ∀ o ∈ l.re ++ l.im, o < l.size

/-- The bounds of 00_scope.md R7 on the capacities; a layout for binary64 components. -/
abbrev paramsWf (p : Params) : Prop :=
  1 ≤ p.nmax ∧ p.nmax ≤ 2 ^ 24 - 1 ∧ isPow2 p.lmax = true ∧ 4 ≤ p.lmax ∧ p.lmax ≤ 2 ^ 26 ∧ layoutWf 8 p.layout

/-- Every memory is in canonical form and lists no index at or above its size. -/
abbrev Datapath.MemsWf {R : Type} (d : Datapath R) : Prop :=
  Mem.wf d.par.nmax d.dmem = true ∧ Mem.wf d.par.lmax d.amem = true ∧ Mem.wf d.par.lmax d.bmem = true ∧
    Mem.wf d.par.nmax d.chtab = true

/-- R22: at most one of BUSY, DONE, ERR is 1; ECODE is not 0 exactly when ERR = 1; ECODE is at most 3. -/
abbrev State.Of.StatusWf {R : Type} (s : State.Of R) : Prop :=
  (s.busy && s.done) = false ∧ (s.busy && s.err) = false ∧ (s.done && s.err) = false ∧
    (s.ecode ≠ 0#4 ↔ s.err = true) ∧ s.ecode.toNat ≤ 3

/-- The elements below `n` are written. -/
abbrev writtenBelow {R : Type} (m : Mem R) (n : Nat) : Prop := ∀ k, k < n → (Mem.get m k).isSome = true

/-- R129: at the test of a turn of BITREV, I < NN and J is the reversal of I. -/
abbrev Regs.PermWf {R : Type} (r : Regs R) : Prop := r.i < r.nn ∧ r.j = revBits (Nat.log2 r.nn) r.i

/-- R143, R144: inside a stage STEP is a power of two below NN, STRIDE = (NN/2)/STEP, G < STEP. -/
abbrev Regs.GroupWf {R : Type} (r : Regs R) : Prop :=
  isPow2 r.step = true ∧ r.step < r.nn ∧ r.stride = r.nn / 2 / r.step ∧ r.g < r.step

/-- R144, R145: LO is an index of group G, HI = LO + STEP. -/
abbrev Regs.PairWf {R : Type} (r : Regs R) : Prop :=
  r.GroupWf ∧ r.lo < r.nn ∧ r.lo % (2 * r.step) = r.g ∧ r.hi = r.lo + r.step

/-- Where the sequencer stands inside STAGES. -/
abbrev State.Of.StagesWf {R : Type} (s : State.Of R) : Prop :=
  (s.upos = .twld ∧ s.dp.r.GroupWf) ∨ (s.upos = .bfly ∧ s.dp.r.PairWf)

/-- The sequencer works on memory `m` at length `n`, a power of two. -/
abbrev State.Of.OnMem {R : Type} (s : State.Of R) (m : MemSel) (n : Nat) : Prop :=
  s.dp.r.msel = m ∧ s.dp.r.nn = n ∧ isPow2 n = true

/-- Where the sequencer stands inside FFT2. -/
abbrev State.Of.FftWf {R : Type} (s : State.Of R) (m : MemSel) (n : Nat) (sg : Sign) : Prop :=
  s.OnMem m n ∧ s.dp.r.ss = sg ∧ ((s.upos = .perm ∧ s.dp.r.PermWf) ∨ s.StagesWf)

/-- The registers a command latches (60_exceptions.md R197 step 8) are those of the word in CMDL, and the command passed the
checks of steps 5 and 7. -/
abbrev State.Of.CommandWf {R : Type} (s : State.Of R) : Prop :=
  s.dp.r.opc = BitVec.ofNat 2 (opField s.cmdl) ∧ s.dp.r.n = lenField s.cmdl ∧
    s.dp.r.s = signOf (invField s.cmdl) ∧ 2 ≤ s.dp.r.n ∧ s.dp.r.n ≤ s.dp.par.nmax

/-- The command is XFORM_GEN and its padded length fits (60_exceptions.md R199). -/
abbrev State.Of.GenWf {R : Type} (s : State.Of R) : Prop :=
  s.CommandWf ∧ s.dp.r.opc = 2#2 ∧ paddedLength s.dp.r.n ≤ s.dp.par.lmax

/-- XFORM_GEN after LCALC: L holds L(N). -/
abbrev State.Of.PaddedWf {R : Type} (s : State.Of R) : Prop := s.GenWf ∧ s.dp.r.l = paddedLength s.dp.r.n

/-- XFORM_GEN once CHTAB is complete (10_state.md R34). -/
abbrev State.Of.ChirpWf {R : Type} (s : State.Of R) : Prop := s.PaddedWf ∧ writtenBelow s.dp.chtab s.dp.r.n

/-- XFORM_GEN once AMEM and BMEM are written in full (10_state.md R30, R31). -/
abbrev State.Of.WorkWf {R : Type} (s : State.Of R) : Prop :=
  s.ChirpWf ∧ writtenBelow s.dp.amem s.dp.r.l ∧ writtenBelow s.dp.bmem s.dp.r.l

/-- Where the sequencer stands in each phase (10_state.md R26, R27), and which hidden elements it has written by then
(10_state.md R35). -/
def State.Of.SeqWf {R : Type} (s : State.Of R) : Prop :=
  match s.seq with
  | .idle => s.busy = false
  | .pPerm => s.busy = true ∧ s.CommandWf ∧ s.dp.r.opc = 0#2 ∧ s.OnMem .dmem s.dp.r.n ∧ s.upos = .perm ∧ s.dp.r.PermWf
  | .tPerm =>
    s.busy = true ∧ s.CommandWf ∧ s.dp.r.opc = 1#2 ∧ s.OnMem .dmem s.dp.r.n ∧ s.dp.r.ss = s.dp.r.s ∧ s.upos = .perm ∧
      s.dp.r.PermWf
  | .tStages =>
    s.busy = true ∧ s.CommandWf ∧ s.dp.r.opc = 1#2 ∧ s.OnMem .dmem s.dp.r.n ∧ s.dp.r.ss = s.dp.r.s ∧ s.StagesWf
  | .gLcalc => s.busy = true ∧ s.GenWf
  | .gChirp => s.busy = true ∧ s.PaddedWf ∧ s.dp.r.k < s.dp.r.n ∧ writtenBelow s.dp.chtab s.dp.r.k
  | .gCmod => s.busy = true ∧ s.ChirpWf ∧ s.dp.r.k < s.dp.r.l ∧ writtenBelow s.dp.amem s.dp.r.k
  | .gBkern =>
    s.busy = true ∧ s.ChirpWf ∧ s.dp.r.k < s.dp.r.l ∧ writtenBelow s.dp.amem s.dp.r.l ∧ writtenBelow s.dp.bmem s.dp.r.k
  | .gFfta => s.busy = true ∧ s.WorkWf ∧ s.FftWf .amem s.dp.r.l .neg
  | .gFftb => s.busy = true ∧ s.WorkWf ∧ s.FftWf .bmem s.dp.r.l .neg
  | .gPmul => s.busy = true ∧ s.WorkWf ∧ s.dp.r.k < s.dp.r.l
  | .gIffta => s.busy = true ∧ s.WorkWf ∧ s.FftWf .amem s.dp.r.l .pos
  | .gWback => s.busy = true ∧ s.WorkWf ∧ s.dp.r.k < s.dp.r.n

/-- PFAULT = 1 only in a run that is marked faulty (60_exceptions.md R206). -/
abbrev State.Of.MarkWf {R : Type} (s : State.Of R) : Prop := s.dp.pfault = true → s.faulty = true

/-- The invariant of the machine. -/
def State.Of.Inv (s : State) : Prop := paramsWf s.dp.par ∧ s.dp.MemsWf ∧ s.StatusWf ∧ s.SeqWf ∧ s.MarkWf

/-- A CMD write is taken as a command (10_state.md R21): BUSY = 0 and PFAULT = 0. -/
abbrev State.Of.Ready {R : Type} (s : State.Of R) : Prop := s.busy = false ∧ s.dp.pfault = false

/-- A final state (60_exceptions.md R206, R210, R211): the core is idle, the host has no move left, and the run is not marked
faulty; a reset after a protocol fault does not make it so. -/
abbrev State.Of.Final {R : Type} (s : State.Of R) : Prop := s.script = [] ∧ s.busy = false ∧ s.faulty = false

/-- Opcode, direction and length of an instruction that is a legal command or a pseudo-instruction (30_encoding.md R78, R83). -/
def commandArgs : Instr → Option (Nat × Bool × Nat)
  | .permute n => some (0, false, n)
  | .xformPow2 n inv => some (1, inv, n)
  | .xformGen n inv => some (2, inv, n)
  | .fft n => some (2, false, n)
  | .ifft n => some (2, true, n)
  | _ => none

/-- `(n << 8) | (inv << 2) | op` (30_encoding.md R82). -/
def commandWord (op : Nat) (inv : Bool) (n : Nat) : Word := BitVec.ofNat 32 (n * 256 + inv.toNat * 4 + op)

/-- The word is illegal (30_encoding.md R76 step 2), on its number: bits 7:3, 1:0 and 2. -/
abbrev illegalWord (w : Word) : Prop :=
  w.toNat / 8 % 32 ≠ 0 ∨ w.toNat % 4 = 3 ∨ (w.toNat % 4 = 0 ∧ w.toNat / 4 % 2 = 1)

/-- The first error of a legal word of opcode `op` and length `n` (60_exceptions.md R197 steps 5 to 7), as an ECODE. -/
def lengthError (par : Params) (op n : Nat) : BitVec 4 :=
  if n ≤ 1 then 0#4
  else if op ≠ 2 ∧ isPow2 n = false then 2#4
  else if par.nmax < n ∨ (op = 2 ∧ par.lmax < paddedLength n) then 3#4
  else 0#4

/-- A legal command of length at least 2 passes the checks of R197 and is accepted. -/
abbrev acceptable (par : Params) (op n : Nat) : Prop :=
  2 ≤ n ∧ n < 2 ^ 24 ∧ (op = 2 ∨ isPow2 n = true) ∧ n ≤ par.nmax ∧ (op = 2 → paddedLength n ≤ par.lmax)

/-- The parts of a datapath no micro-operation writes. -/
abbrev sameFixed {R : Type} (d d' : Datapath R) : Prop :=
  d'.par = d.par ∧ d'.pfault = d.pfault ∧ d'.draws = d.draws

/-- The registers of a command that its routines do not write. -/
abbrev sameCommandRegs {R : Type} (r r' : Regs R) : Prop :=
  r'.opc = r.opc ∧ r'.n = r.n ∧ r'.s = r.s ∧ r'.l = r.l ∧ r'.k = r.k

/-- Every element of every memory reads alike, but those of memory `m` below `n`. -/
abbrev sameBut {R : Type} (d d' : Datapath R) (m : MemId) (n : Nat) : Prop :=
  ∀ m' k, ¬ (m' = m ∧ k < n) → Mem.get (d'.mem m') k = Mem.get (d.mem m') k

/-- The reads of memory `m` are not spoiled by a protocol fault (60_exceptions.md R206). -/
abbrev readable {R : Type} (d : Datapath R) (m : MemId) : Prop := d.pfault = false ∨ m ≠ .dmem

/-- The control registers and the STATUS bits: everything but memories and Complex registers. -/
abbrev sameControl {R : Type} (s t : State.Of R) : Prop :=
  t.cmdl = s.cmdl ∧ t.busy = s.busy ∧ t.done = s.done ∧ t.err = s.err ∧ t.ecode = s.ecode ∧ t.seq = s.seq ∧
    t.upos = s.upos ∧ t.dp.pfault = s.dp.pfault ∧ t.dp.par = s.dp.par ∧
    t.dp.r = { s.dp.r with w := t.dp.r.w, p := t.dp.r.p, t := t.dp.r.t, z := t.dp.r.z }

/-- Micro-operations and turns of BITREV that FFT2 at a power of two `n` takes (41_permute.md R132, 42_pow2_transform.md R148):
n turns of BITREV, n − 1 TWLD, (n/2)·log2 n BFLY. -/
def fft2Steps (n : Nat) : Nat := n + (n - 1) + n / 2 * Nat.log2 n

/-- Steps of the sequencer from acceptance to completion, a function of the opcode and N alone (70_reset_and_hazards.md R237;
R132, R148, 43_general_transform.md R185). -/
def commandSteps (op n : Nat) : Nat :=
  if op = 0 then n
  else if op = 1 then fft2Steps n
  else 1 + n + paddedLength n + paddedLength n + 3 * fft2Steps (paddedLength n) + paddedLength n + n

end Sys2Proof.Machine
end

