-- ==== Sys2Proof/Certificates/Slice0/Obligations.lean ====
section
/-! DEFINITION. The statements for the provers. -/

open Sys2Proof Sys2Proof.Machine

/-! ## Encoding -/

/-- 30_encoding.md R84: the worked encodings, read by the decoder and written by the encoder. -/
def Obligations.WorkedEncodings : Prop :=
  (decode 0x00000800#32 = .ok (.permute 8) ∧ encode (.permute 8) = some 0x00000800#32) ∧
  (decode 0x00000000#32 = .ok (.permute 0) ∧ encode (.permute 0) = some 0x00000000#32) ∧
  (decode 0x00000401#32 = .ok (.xformPow2 4 false) ∧ encode (.xformPow2 4 false) = some 0x00000401#32) ∧
  (decode 0x00000405#32 = .ok (.xformPow2 4 true) ∧ encode (.xformPow2 4 true) = some 0x00000405#32) ∧
  (decode 0x00000101#32 = .ok (.xformPow2 1 false) ∧ encode (.xformPow2 1 false) = some 0x00000101#32) ∧
  (decode 0x00000302#32 = .ok (.xformGen 3 false) ∧ encode (.xformGen 3 false) = some 0x00000302#32) ∧
  (decode 0x00000306#32 = .ok (.xformGen 3 true) ∧ encode (.xformGen 3 true) = some 0x00000306#32) ∧
  (decode 0x00000402#32 = .ok (.xformGen 4 false) ∧ encode (.xformGen 4 false) = some 0x00000402#32) ∧
  (decode 0x00000406#32 = .ok (.xformGen 4 true) ∧ encode (.xformGen 4 true) = some 0x00000406#32) ∧
  (decode 0xFFFFFF05#32 = .ok (.xformPow2 16777215 true) ∧
    encode (.xformPow2 16777215 true) = some 0xFFFFFF05#32) ∧
  (decode 0x00000003#32 = .ok (.reservedOp3 0 0 false) ∧ encode (.reservedOp3 0 0 false) = some 0x00000003#32) ∧
  (decode 0x00000804#32 = .ok (.illegalPermuteInv 8) ∧ encode (.illegalPermuteInv 8) = some 0x00000804#32) ∧
  decode 0x00000409#32 = .error .reservedBits

/-- R75, R76, R82, R83: the decoder reads back every well-formed instruction that has a word, a pseudo-instruction as the
command it stands for; and every row with a bit pattern has a word. -/
def Obligations.DecodeOfEncode : Prop :=
  (∀ (i : Instr) (w : Word), i.wf = true → encode i = some w → decode w = .ok i.expand) ∧
  ∀ i : Instr, i.row.isSome = true → (encode i).isSome = true

/-- R76, R82: what the decoder reads is well-formed and encodes to the word it was read from. -/
def Obligations.EncodeOfDecode : Prop :=
  ∀ (w : Word) (i : Instr), decode w = .ok i → i.wf = true ∧ encode i = some w

/-- R76: every word is illegal, and then its write to CMD ends in ERR_ILLEGAL, or it is exactly the command that its OP field
names, with operands N = w[31:8] and inv = w[2], and goes on to the value checks of R197. -/
def Obligations.EveryWordIllegalOrOneCommand : Prop :=
  ∀ (w : Word) (s : State), s.Ready →
    (illegalWord w →
      commandWrite w s = .next { s with cmdl := w, done := false, err := true, ecode := 1#4 }) ∧
    (¬ illegalWord w →
      (w.toNat % 4 = 0 → decode w = .ok (.permute (w.toNat / 256))) ∧
      (w.toNat % 4 = 1 → decode w = .ok (.xformPow2 (w.toNat / 256) (w.toNat / 4 % 2 == 1))) ∧
      (w.toNat % 4 = 2 → decode w = .ok (.xformGen (w.toNat / 256) (w.toNat / 4 % 2 == 1))) ∧
      commandWrite w s = .next (checkCommand (beginCommand w s)))

/-- R78: a word selects a command row exactly when it decodes to that command; the three command rows are pairwise disjoint;
a word that selects none of them is illegal; OP = 3 is the reserved row. -/
def Obligations.OpcodeMapSelects : Prop :=
  ∀ w : Word,
    (rowPermute.selects w = true ↔ ∃ n, decode w = .ok (.permute n)) ∧
    (rowXformPow2.selects w = true ↔ ∃ n inv, decode w = .ok (.xformPow2 n inv)) ∧
    (rowXformGen.selects w = true ↔ ∃ n inv, decode w = .ok (.xformGen n inv)) ∧
    (rowReservedOp3.selects w = true ↔ ∃ n rsv inv, decode w = .ok (.reservedOp3 n rsv inv)) ∧
    (rowPermute.selects w && rowXformPow2.selects w) = false ∧
    (rowPermute.selects w && rowXformGen.selects w) = false ∧
    (rowXformPow2.selects w && rowXformGen.selects w) = false ∧
    (illegalWord w ↔
      rowPermute.selects w = false ∧ rowXformPow2.selects w = false ∧ rowXformGen.selects w = false)

/-! ## Reset -/

/-- 10_state.md R39: STATUS is 0, SEQ is IDLE, every element of every memory is unwritten; the core waits (a step leaves it
as it is). -/
def Obligations.ResetState : Prop :=
  statusWord State.reset = 0#32 ∧ State.reset.seq = .idle ∧
    (∀ m k, Mem.get (State.reset.dp.mem m) k = none) ∧ step State.reset = .next State.reset

/-- 70_reset_and_hazards.md R225, R226: reset at any time, in the middle of a command too, leaves STATUS 0, SEQ IDLE and every
element unwritten; it clears PFAULT. That the parameters, the mark of a faulty run, the rest of the script and what the host has
read stay is the model's own (log 1, 10, 11, 25). -/
def Obligations.ResetAtAnyTime : Prop :=
  ∀ (s : State) (rest : List (HostMove F64)), s.script = .reset :: rest →
    ∃ t, step s = .next t ∧ statusWord t = 0#32 ∧ t.busy = false ∧ t.dp.pfault = false ∧ t.seq = .idle ∧
      (∀ m k, Mem.get (t.dp.mem m) k = none) ∧ t.dp.par = s.dp.par ∧ t.faulty = s.faulty ∧
      t.script = rest ∧ t.rdata = s.rdata

/-! ## The step -/

/-- 20_memory.md R65, 60_exceptions.md R197: the next move of the host writes a word to CMD and the word decodes to `i`: the
step is `exec i` at the state without that move. A word the decoder rejects is issued as an illegal word. The write of the
word's four bytes at REG_BASE is the same step (20_memory.md R52, R53; the width of a bus access tells what it names: log 19); and
`withFetchWord` places such a move (the host's script is the model's own: log 10). -/
def Obligations.StepRunsDecodedCommand : Prop :=
  ∀ (s : State) (w : Word) (rest : List (HostMove F64)), s.script = .regWrite 0 w :: rest →
    (∀ i, decode w = .ok i → step s = exec i { s with script := rest }) ∧
    (∀ e, decode w = .error e → step s = issueIllegal w { s with script := rest }) ∧
    step { s with script := .busWrite s.dp.par.regBase (wordBytes w) :: rest } = step s ∧
    step (State.withFetchWord { s with script := rest } 32 w.toNat) = step s

/-- 10_state.md R27, in the model's steps (log 10, 12): with no host move left the sequencer performs its next micro-operation by
`exec` and advances; it stops where the micro-operation stops; with none to perform it only advances; an idle core stays as it
is. -/
def Obligations.StepRunsMicroOp : Prop :=
  ∀ s : State, s.script = [] →
    (s.busy = false → step s = .next s) ∧
    (s.busy = true → microOp s = none → step s = .next (advance s)) ∧
    (∀ i, s.busy = true → microOp s = some i →
      step s = match exec i s with
        | .next t => .next (advance t)
        | .fault r => .fault r
        | .refused r => .refused r)

/-- 30_encoding.md R83: WAIT lets the sequencer step while BUSY = 1 and then yields the STATUS word. That a `tick` is one
sequencer step is the model's own (log 10). -/
def Obligations.WaitReadsStatusWhenIdle : Prop :=
  ∀ (s : State) (rest : List (HostMove F64)),
    (s.script = .wait :: rest → s.busy = true → step s = coreStep s) ∧
    (s.script = .wait :: rest → s.busy = false →
      step s = .next { s with script := rest, rdata := .word (statusWord s) }) ∧
    (s.script = .tick :: rest → step s = coreStep { s with script := rest })

/-! ## Command acceptance -/

/-- 60_exceptions.md R200: a legal command of length 0 or 1, whatever its opcode and direction, completes at once: DONE = 1,
BUSY stays 0, nothing of the datapath changes (all five instructions that are legal commands). Of the working registers and the
hidden memories that is the model's choice (log 24). -/
def Obligations.DegenerateLengthCompletes : Prop :=
  ∀ (i : Instr) (op n : Nat) (inv : Bool) (s : State), commandArgs i = some (op, inv, n) → s.Ready → n ≤ 1 →
    exec i s = .next { s with cmdl := commandWord op inv n, busy := false, done := true, err := false, ecode := 0#4,
                              seq := .idle, upos := .single }

/-- 60_exceptions.md R201: PERMUTE and XFORM_POW2 at a length of at least 2 that is no power of two end in ERR_LEN with
nothing else changed; XFORM_GEN, FFT and IFFT never do. -/
def Obligations.LengthErrorRaised : Prop :=
  (∀ (i : Instr) (op n : Nat) (inv : Bool) (s : State), commandArgs i = some (op, inv, n) → s.Ready → op ≠ 2 →
    2 ≤ n → n < 2 ^ 24 → isPow2 n = false →
    exec i s = .next { s with cmdl := commandWord op inv n, done := false, err := true, ecode := 2#4 }) ∧
  ∀ (i : Instr) (n : Nat) (inv : Bool) (s t : State), commandArgs i = some (2, inv, n) → s.Ready →
    exec i s = .next t → t.ecode ≠ 2#4

/-- 60_exceptions.md R199: a length above NMAX, or for XFORM_GEN a padded length above LMAX, ends in ERR_CAP with nothing
else changed, where no earlier check applies; with NMAX and LMAX as large as 00_scope.md R7 allows no command does. -/
def Obligations.CapacityErrorRaised : Prop :=
  (∀ (i : Instr) (op n : Nat) (inv : Bool) (s : State), commandArgs i = some (op, inv, n) → s.Ready →
    2 ≤ n → n < 2 ^ 24 → (op = 2 ∨ isPow2 n = true) →
    (s.dp.par.nmax < n ∨ (op = 2 ∧ s.dp.par.lmax < paddedLength n)) →
    exec i s = .next { s with cmdl := commandWord op inv n, done := false, err := true, ecode := 3#4 }) ∧
  ∀ (i : Instr) (op n : Nat) (inv : Bool) (s t : State), commandArgs i = some (op, inv, n) → s.Ready →
    2 ^ 24 - 1 ≤ s.dp.par.nmax → 2 ^ 26 ≤ s.dp.par.lmax → exec i s = .next t → t.ecode ≠ 3#4

/-- 30_encoding.md R80, 60_exceptions.md R198: the two illegal rows of the table, and every word with RSV ≠ 0, end in
ERR_ILLEGAL with nothing else changed. -/
def Obligations.IllegalEncodingsRaise : Prop :=
  (∀ (len rsv : Nat) (inv : Bool) (s : State), s.Ready → len < 2 ^ 24 → rsv < 32 →
    exec (.reservedOp3 len rsv inv) s =
      .next { s with cmdl := BitVec.ofNat 32 (len * 256 + rsv * 8 + inv.toNat * 4 + 3), done := false, err := true,
                     ecode := 1#4 }) ∧
  (∀ (len : Nat) (s : State), s.Ready → len < 2 ^ 24 →
    exec (.illegalPermuteInv len) s =
      .next { s with cmdl := BitVec.ofNat 32 (len * 256 + 4), done := false, err := true, ecode := 1#4 }) ∧
  ∀ (w : Word) (s : State), s.Ready → w.toNat / 8 % 32 ≠ 0 →
    commandWrite w s = .next { s with cmdl := w, done := false, err := true, ecode := 1#4 }

/-- 60_exceptions.md R202: whatever word is written to a ready core, if it ends with ERR = 1 then nothing but STATUS and CMDL
has changed: BUSY and DONE are 0, SEQ and every memory and register are as they were, and ECODE is the code of the error, 1, 2
or 3. -/
def Obligations.ErrorCompletionChangesOnlyStatus : Prop :=
  ∀ (w : Word) (s t : State), s.Ready → commandWrite w s = .next t → t.err = true →
    t = { s with cmdl := w, done := false, err := true, ecode := t.ecode } ∧
      (t.ecode = 1#4 ∨ t.ecode = 2#4 ∨ t.ecode = 3#4) ∧
      t.ecode = if illegalWord w then 1#4 else lengthError s.dp.par (w.toNat % 4) (w.toNat / 256)

/-- 60_exceptions.md R203: one code per word, the first that applies of ERR_ILLEGAL, ERR_LEN, ERR_CAP; a word written while
BUSY = 1 is a protocol fault and is not decoded. -/
def Obligations.ErrorPriority : Prop :=
  ∀ (w : Word) (s : State),
    (s.Ready → ∃ t, commandWrite w s = .next t ∧
      t.ecode = if illegalWord w then 1#4 else lengthError s.dp.par (w.toNat % 4) (w.toNat / 256)) ∧
    (s.dp.pfault = false → s.busy = true → commandWrite w s = .next (protocolFault s))

/-- 60_exceptions.md R205: issuing a command forgets the DONE, ERR and ECODE of the command before. -/
def Obligations.IssueForgetsEarlierStatus : Prop :=
  ∀ (w : Word) (s : State) (d e : Bool) (c : BitVec 4), s.Ready →
    commandWrite w { s with done := d, err := e, ecode := c } = commandWrite w s

/-- 60_exceptions.md R197 step 8, 10_state.md R27: an acceptable command sets BUSY, latches OPC, N and S, clears DONE, ERR and
ECODE, and moves SEQ to the first phase of its opcode; no memory is touched (all five instructions that are legal commands). -/
def Obligations.CommandAccepted : Prop :=
  ∀ (i : Instr) (op n : Nat) (inv : Bool) (s : State), commandArgs i = some (op, inv, n) → s.Ready →
    acceptable s.dp.par op n →
    ∃ t, exec i s = .next t ∧ t.cmdl = commandWord op inv n ∧ t.busy = true ∧ t.done = false ∧ t.err = false ∧
      t.ecode = 0#4 ∧ t.dp.r.opc = BitVec.ofNat 2 op ∧ t.dp.r.n = n ∧
      t.dp.r.s = (if inv then Sign.pos else Sign.neg) ∧
      t.seq = (if op = 0 then Phase.pPerm else if op = 1 then .tPerm else .gLcalc) ∧
      (∀ m, t.dp.mem m = s.dp.mem m) ∧ sameFixed s.dp t.dp ∧ t.faulty = s.faulty ∧ t.script = s.script ∧
      t.rdata = s.rdata

/-! ## Whole commands -/

/-- 41_permute.md R125, R126: `PERMUTE n` is accepted and completes with DONE = 1; DMEM[rev_k(i)] holds what DMEM[i] held,
elements at n and above and the elements of the other memories are untouched. Only elements whose index is not its own reversal
need be written. That it takes n steps of the sequencer is the model's grain of a step (log 12), and that the hidden memories
keep their elements its choice (log 24). -/
def Obligations.PermuteCommandReorders : Prop :=
  ∀ (n : Nat) (s : State), s.Ready → s.script = [] → acceptable s.dp.par 0 n →
    (∀ k, k < n → revBits (Nat.log2 n) k ≠ k → (Mem.get s.dp.dmem k).isSome = true) →
    ∃ t u, exec (.permute n) s = .next t ∧ Host.Core.run core n t = .next u ∧
      u.busy = false ∧ u.done = true ∧ u.err = false ∧ u.ecode = 0#4 ∧ u.seq = .idle ∧
      (∀ k, k < n → Mem.get u.dp.dmem (revBits (Nat.log2 n) k) = Mem.get s.dp.dmem k) ∧
      sameBut s.dp u.dp .dmem n

/-- 42_pow2_transform.md R140, 70_reset_and_hazards.md R232: `XFORM_POW2` is accepted and, run by the sequencer, completes with
DONE = 1 and with the datapath that FFT2(DMEM, N, S) gives in one go; and so it does on the machine at every NUM (00_scope.md R7,
R18). The number of steps is the model's grain of a step (log 12); what the working registers hold afterwards is the model's choice
(log 24). -/
def Obligations.XformPow2CommandRunsFft2 : Prop :=
  (∀ (n : Nat) (inv : Bool) (s : State), s.Ready → s.script = [] → acceptable s.dp.par 1 n →
    writtenBelow s.dp.dmem n →
    ∃ t u, exec (.xformPow2 n inv) s = .next t ∧ Host.Core.run core (commandSteps 1 n) t = .next u ∧
      u.busy = false ∧ u.done = true ∧ u.err = false ∧ u.ecode = 0#4 ∧ u.seq = .idle ∧
      fft2 numB64 .dmem n (if inv then .pos else .neg) t.dp = .ok u.dp ∧ sameBut s.dp u.dp .dmem n) ∧
  ∀ (R : Type) (cf : Setup R) (n : Nat) (inv : Bool) (s : State.Of R), s.Ready → s.script = [] →
    acceptable s.dp.par 1 n → writtenBelow s.dp.dmem n →
    ∃ t u : State.Of R, perform cf.num (.xformPow2 n inv) s = .next t ∧
      Host.Core.run (machineOf cf) (commandSteps 1 n) t = .next u ∧
      u.busy = false ∧ u.done = true ∧ u.err = false ∧ u.ecode = 0#4 ∧ u.seq = .idle ∧
      fft2 cf.num .dmem n (if inv then .pos else .neg) t.dp = .ok u.dp ∧ sameBut s.dp u.dp .dmem n

/-- 43_general_transform.md R165, 70_reset_and_hazards.md R232: `XFORM_GEN`, `FFT` and `IFFT` are accepted and, run by the
sequencer, complete with DONE = 1 and with the datapath that the phases of R165 give in one go; of DMEM only elements below n
change; and so they do on the machine at every NUM (00_scope.md R7, R18). The number of steps is the model's grain of a step
(log 12); what the working registers, AMEM, BMEM and CHTAB hold afterwards is the model's choice (log 24). -/
def Obligations.XformGenCommandRunsReduction : Prop :=
  (∀ (i : Instr) (n : Nat) (inv : Bool) (s : State), commandArgs i = some (2, inv, n) → s.Ready → s.script = [] →
    acceptable s.dp.par 2 n → writtenBelow s.dp.dmem n →
    ∃ t u, exec i s = .next t ∧ Host.Core.run core (commandSteps 2 n) t = .next u ∧
      u.busy = false ∧ u.done = true ∧ u.err = false ∧ u.ecode = 0#4 ∧ u.seq = .idle ∧
      genFlow numB64 t.dp = .ok u.dp ∧ (∀ k, n ≤ k → Mem.get u.dp.dmem k = Mem.get s.dp.dmem k)) ∧
  ∀ (R : Type) (cf : Setup R) (i : Instr) (n : Nat) (inv : Bool) (s : State.Of R), commandArgs i = some (2, inv, n) →
    s.Ready → s.script = [] → acceptable s.dp.par 2 n → writtenBelow s.dp.dmem n →
    ∃ t u : State.Of R, perform cf.num i s = .next t ∧ Host.Core.run (machineOf cf) (commandSteps 2 n) t = .next u ∧
      u.busy = false ∧ u.done = true ∧ u.err = false ∧ u.ecode = 0#4 ∧ u.seq = .idle ∧
      genFlow cf.num t.dp = .ok u.dp ∧ (∀ k, n ≤ k → Mem.get u.dp.dmem k = Mem.get s.dp.dmem k)

/-- 70_reset_and_hazards.md R237: an accepted command ends after a number of steps that depends on the opcode and N only: BUSY
is 1 before that many steps and 0 after them (what one step is: log 12). -/
def Obligations.AcceptedCommandTerminates : Prop :=
  ∀ (w : Word) (s t : State), s.Ready → s.script = [] → commandWrite w s = .next t → t.busy = true →
    writtenBelow s.dp.dmem (w.toNat / 256) →
    (∀ j, j < commandSteps (w.toNat % 4) (w.toNat / 256) →
      ∃ u, Host.Core.run core j t = .next u ∧ u.busy = true) ∧
    ∃ u, Host.Core.run core (commandSteps (w.toNat % 4) (w.toNat / 256)) t = .next u ∧ u.busy = false ∧ u.done = true

/-- 10_state.md R35: the result of a command is a function of the word, DMEM[0..N−1] and the capacities: two ready cores that
differ in everything else (work memories, chirp table, working registers, latched word, old status, DMEM at N and above) read
the same STATUS after every step of the same command and end with the same DMEM[0..N−1]. -/
def Obligations.HiddenStateDoesNotLeak : Prop :=
  ∀ (w : Word) (s1 s2 t1 : State), s1.Ready → s2.Ready → s1.script = [] → s2.script = [] →
    s1.dp.par = s2.dp.par → (∀ k, k < w.toNat / 256 → Mem.get s1.dp.dmem k = Mem.get s2.dp.dmem k) →
    commandWrite w s1 = .next t1 →
    ∃ t2, commandWrite w s2 = .next t2 ∧ statusWord t2 = statusWord t1 ∧
      ∀ j u1, Host.Core.run core j t1 = .next u1 →
        ∃ u2, Host.Core.run core j t2 = .next u2 ∧ statusWord u2 = statusWord u1 ∧
          (u1.busy = false → ∀ k, k < w.toNat / 256 → Mem.get u2.dp.dmem k = Mem.get u1.dp.dmem k)

/-! ## Micro-operations -/

/-- 41_permute.md R128: SWAP exchanges two elements, leaves them in T and Z, and changes nothing else; where either element is
unwritten it ends in the uninitialised-element fault. -/
def Obligations.SwapExchanges : Prop :=
  (∀ (m : MemSel) (a b : Nat) (s : State) (x y : Cplx F64), a < b →
    memRead numB64 (memOf m) a s.dp = .ok x → memRead numB64 (memOf m) b s.dp = .ok y →
    ∃ d, exec (.swap m a b) s = .next { s with dp := d } ∧
      (∀ m' k, Mem.get (d.mem m') k =
        if m' = memOf m ∧ k = a then some y else if m' = memOf m ∧ k = b then some x else Mem.get (s.dp.mem m') k) ∧
      d.r = { s.dp.r with t := x, z := y } ∧ sameFixed s.dp d) ∧
  ∀ (m : MemSel) (a b : Nat) (s : State), readable s.dp (memOf m) → a < s.dp.size (memOf m) → b < s.dp.size (memOf m) →
    (Mem.get (s.dp.mem (memOf m)) a = none ∨ Mem.get (s.dp.mem (memOf m)) b = none) →
    exec (.swap m a b) s = .fault .uninitialisedElement

/-- 42_pow2_transform.md R147: BFLY reads both elements, P <- W·M[hi] (W the left factor), T <- M[lo], M[hi] <- T − P,
M[lo] <- T + P, and changes nothing else; where either element is unwritten it ends in the uninitialised-element fault. -/
def Obligations.ButterflyResult : Prop :=
  (∀ (m : MemSel) (lo hi : Nat) (s : State) (h t : Cplx F64), lo < hi →
    memRead numB64 (memOf m) hi s.dp = .ok h → memRead numB64 (memOf m) lo s.dp = .ok t →
    ∃ d p, exec (.bfly m lo hi) s = .next { s with dp := d } ∧
      p = (⟨f64Sub (f64Mul s.dp.r.w.re h.re) (f64Mul s.dp.r.w.im h.im),
            f64Add (f64Mul s.dp.r.w.re h.im) (f64Mul s.dp.r.w.im h.re)⟩ : Cplx F64) ∧
      (∀ m' k, Mem.get (d.mem m') k =
        if m' = memOf m ∧ k = lo then some ⟨f64Add t.re p.re, f64Add t.im p.im⟩
        else if m' = memOf m ∧ k = hi then some ⟨f64Sub t.re p.re, f64Sub t.im p.im⟩
        else Mem.get (s.dp.mem m') k) ∧
      d.r = { s.dp.r with p := p, t := t } ∧ sameFixed s.dp d) ∧
  ∀ (m : MemSel) (lo hi : Nat) (s : State), readable s.dp (memOf m) → lo < s.dp.size (memOf m) →
    hi < s.dp.size (memOf m) → (Mem.get (s.dp.mem (memOf m)) lo = none ∨ Mem.get (s.dp.mem (memOf m)) hi = none) →
    exec (.bfly m lo hi) s = .fault .uninitialisedElement

/-- 42_pow2_transform.md R143, 10_state.md R33: TWLD loads W with TWROM(NN, SS, G·STRIDE) = cexp(SS, G·STRIDE, NN/2) and changes
nothing else. -/
def Obligations.TwiddleLoaded : Prop :=
  ∀ s : State,
    exec .twld s =
      .next { s with dp := { s.dp with r := { s.dp.r with
        w := ⟨f64CosPi (s.dp.r.g * s.dp.r.stride) (s.dp.r.nn / 2),
              if s.dp.r.ss = .pos then f64SinPi (s.dp.r.g * s.dp.r.stride) (s.dp.r.nn / 2)
              else f64Neg (f64SinPi (s.dp.r.g * s.dp.r.stride) (s.dp.r.nn / 2))⟩ } } }

/-- 43_general_transform.md R167: LCALC puts the smallest power of two strictly greater than 2·N into L and changes nothing
else. -/
def Obligations.PaddedLengthIsLeast : Prop :=
  ∀ s : State, ∃ l, exec .lcalc s = .next { s with dp := { s.dp with r := { s.dp.r with l := l } } } ∧
    isPow2 l = true ∧ 2 * s.dp.r.n < l ∧ ∀ l', isPow2 l' = true → 2 * s.dp.r.n < l' → l ≤ l'

/-- 43_general_transform.md R170: CHTAB[K] <- cexp(S, K·K, N), with K² unreduced; nothing else changes. -/
def Obligations.ChirpEntryWritten : Prop :=
  ∀ s : State, s.dp.r.k < s.dp.par.nmax →
    ∃ d, exec .chirpgen s = .next { s with dp := d } ∧
      (∀ m k, Mem.get (d.mem m) k =
        if m = .chtab ∧ k = s.dp.r.k then
          some ⟨f64CosPi (s.dp.r.k * s.dp.r.k) s.dp.r.n,
                if s.dp.r.s = .pos then f64SinPi (s.dp.r.k * s.dp.r.k) s.dp.r.n
                else f64Neg (f64SinPi (s.dp.r.k * s.dp.r.k) s.dp.r.n)⟩
        else Mem.get (s.dp.mem m) k) ∧
      d.r = s.dp.r ∧ sameFixed s.dp d

/-- 43_general_transform.md R172: AMEM[K] <- CHTAB[K]·DMEM[K] for K < N, else zero; Z holds the value; nothing else changes,
DMEM in particular. -/
def Obligations.ChirpModulation : Prop :=
  ∀ (s : State) (c x v : Cplx F64), s.dp.r.k < s.dp.par.lmax →
    ((s.dp.r.k < s.dp.r.n ∧ memRead numB64 .chtab s.dp.r.k s.dp = .ok c ∧
        memRead numB64 .dmem s.dp.r.k s.dp = .ok x ∧
        v = ⟨f64Sub (f64Mul c.re x.re) (f64Mul c.im x.im), f64Add (f64Mul c.re x.im) (f64Mul c.im x.re)⟩) ∨
      (s.dp.r.n ≤ s.dp.r.k ∧ v = ⟨0#64, 0#64⟩)) →
    ∃ d, exec .cmod s = .next { s with dp := d } ∧
      (∀ m k, Mem.get (d.mem m) k = if m = .amem ∧ k = s.dp.r.k then some v else Mem.get (s.dp.mem m) k) ∧
      d.r = { s.dp.r with z := v } ∧ sameFixed s.dp d

/-- 43_general_transform.md R174: BMEM[K] <- CHTAB[0] at K = 0; the conjugate of CHTAB[K] for 1 <= K < N; the conjugate of
CHTAB[L − K] for K > L − N; zero between. Z holds the value; nothing else changes. -/
def Obligations.KernelBuild : Prop :=
  ∀ (s : State) (c v : Cplx F64), s.dp.r.k < s.dp.par.lmax →
    ((s.dp.r.k = 0 ∧ memRead numB64 .chtab 0 s.dp = .ok c ∧ v = c) ∨
      (0 < s.dp.r.k ∧ s.dp.r.k < s.dp.r.n ∧ memRead numB64 .chtab s.dp.r.k s.dp = .ok c ∧
        v = ⟨c.re, f64Neg c.im⟩) ∨
      (0 < s.dp.r.k ∧ s.dp.r.n ≤ s.dp.r.k ∧ s.dp.r.l - s.dp.r.n < s.dp.r.k ∧
        memRead numB64 .chtab (s.dp.r.l - s.dp.r.k) s.dp = .ok c ∧ v = ⟨c.re, f64Neg c.im⟩) ∨
      (0 < s.dp.r.k ∧ s.dp.r.n ≤ s.dp.r.k ∧ s.dp.r.k ≤ s.dp.r.l - s.dp.r.n ∧ v = ⟨0#64, 0#64⟩)) →
    ∃ d, exec .bkern s = .next { s with dp := d } ∧
      (∀ m k, Mem.get (d.mem m) k = if m = .bmem ∧ k = s.dp.r.k then some v else Mem.get (s.dp.mem m) k) ∧
      d.r = { s.dp.r with z := v } ∧ sameFixed s.dp d

/-- 43_general_transform.md R176: AMEM[K] <- AMEM[K]·BMEM[K], AMEM[K] the left factor; Z holds the value; nothing else changes. -/
def Obligations.PointwiseProduct : Prop :=
  ∀ (s : State) (a b : Cplx F64),
    memRead numB64 .amem s.dp.r.k s.dp = .ok a → memRead numB64 .bmem s.dp.r.k s.dp = .ok b →
    ∃ d v, exec .pmul s = .next { s with dp := d } ∧
      v = (⟨f64Sub (f64Mul a.re b.re) (f64Mul a.im b.im), f64Add (f64Mul a.re b.im) (f64Mul a.im b.re)⟩ : Cplx F64) ∧
      (∀ m k, Mem.get (d.mem m) k = if m = .amem ∧ k = s.dp.r.k then some v else Mem.get (s.dp.mem m) k) ∧
      d.r = { s.dp.r with z := v } ∧ sameFixed s.dp d

/-- 43_general_transform.md R178: Z <- AMEM[K]·CHTAB[K], then DMEM[K] <- each component of Z divided by L; nothing else
changes. -/
def Obligations.Writeback : Prop :=
  ∀ (s : State) (a c : Cplx F64), s.dp.r.k < s.dp.par.nmax →
    memRead numB64 .amem s.dp.r.k s.dp = .ok a → memRead numB64 .chtab s.dp.r.k s.dp = .ok c →
    ∃ d v, exec .wback s = .next { s with dp := d } ∧
      v = (⟨f64Sub (f64Mul a.re c.re) (f64Mul a.im c.im), f64Add (f64Mul a.re c.im) (f64Mul a.im c.re)⟩ : Cplx F64) ∧
      (∀ m k, Mem.get (d.mem m) k =
        if m = .dmem ∧ k = s.dp.r.k then some ⟨f64DivN v.re s.dp.r.l, f64DivN v.im s.dp.r.l⟩
        else Mem.get (s.dp.mem m) k) ∧
      d.r = { s.dp.r with z := v } ∧ sameFixed s.dp d

/-! ## Primitives -/

/-- Where the result `v` of a primitive has gone: into one register or one element, everything else unchanged (log 13). -/
def PutResult (dst : COperand) (v : Cplx F64) (s t : State) : Prop :=
  match dst with
  | .reg .w => t = { s with dp := { s.dp with r := { s.dp.r with w := v } } }
  | .reg .p => t = { s with dp := { s.dp with r := { s.dp.r with p := v } } }
  | .reg .t => t = { s with dp := { s.dp with r := { s.dp.r with t := v } } }
  | .reg .z => t = { s with dp := { s.dp with r := { s.dp.r with z := v } } }
  | .elem m k =>
    t = { s with dp := t.dp } ∧ t.dp.r = s.dp.r ∧ sameFixed s.dp t.dp ∧
      ∀ m' k', Mem.get (t.dp.mem m') k' = if m' = m ∧ k' = k then some v else Mem.get (s.dp.mem m') k'

/-- The destination exists: a register, or an element below the size of its memory. -/
def DestinationExists (dst : COperand) (s : State) : Prop :=
  match dst with
  | .reg _ => True
  | .elem m k => k < s.dp.size m

/-- 40_complex_arith.md R104, R105, R106: the results of cadd, csub and cmul in terms of the real operations, wherever their
operands are taken from and their result is put. -/
def Obligations.BinaryPrimitiveResults : Prop :=
  ∀ (dst a b : COperand) (s : State) (x y : Cplx F64), readOperand numB64 a s.dp = .ok x →
    readOperand numB64 b s.dp = .ok y → DestinationExists dst s →
    (∃ t, exec (.cadd dst a b) s = .next t ∧ PutResult dst ⟨f64Add x.re y.re, f64Add x.im y.im⟩ s t) ∧
    (∃ t, exec (.csub dst a b) s = .next t ∧ PutResult dst ⟨f64Sub x.re y.re, f64Sub x.im y.im⟩ s t) ∧
    (∃ t, exec (.cmul dst a b) s = .next t ∧
      PutResult dst ⟨f64Sub (f64Mul x.re y.re) (f64Mul x.im y.im), f64Add (f64Mul x.re y.im) (f64Mul x.im y.re)⟩ s t)

/-- 40_complex_arith.md R103, R107, R108, R110: the results of czero, conj, cexp and cdivn. -/
def Obligations.UnaryPrimitiveResults : Prop :=
  ∀ (dst a : COperand) (s : State) (x : Cplx F64) (sg : Sign) (p q l : Nat), readOperand numB64 a s.dp = .ok x →
    DestinationExists dst s →
    (∃ t, exec (.czero dst) s = .next t ∧ PutResult dst ⟨0#64, 0#64⟩ s t) ∧
    (∃ t, exec (.conj dst a) s = .next t ∧ PutResult dst ⟨x.re, f64Neg x.im⟩ s t) ∧
    (∃ t, exec (.cexp dst sg p q) s = .next t ∧
      PutResult dst ⟨f64CosPi p q, if sg = .pos then f64SinPi p q else f64Neg (f64SinPi p q)⟩ s t) ∧
    (∃ t, exec (.cdivn dst a l) s = .next t ∧ PutResult dst ⟨f64DivN x.re l, f64DivN x.im l⟩ s t)

/-- 40_complex_arith.md R109 (b), (c), R106, for the machine's numerics: cexp(+1, p, q) is the conjugate of cexp(−1, p, q);
cexp(s, 0, q) is one with a zero imaginary part; cmul commutes bit for bit (on operands that give a NaN this rests on the model's
symmetric draw, log 3: R113 leaves the NaN's bits open). -/
def Obligations.NumericLaws : Prop :=
  (∀ p q, cexp numB64 .pos p q = conj numB64 (cexp numB64 .neg p q)) ∧
  (∀ sg q, (cexp numB64 sg 0 q).re = 0x3FF0000000000000#64 ∧ f64IsZero (cexp numB64 sg 0 q).im = true) ∧
  ∀ a b : Cplx F64, cmul numB64 a b = cmul numB64 b a

/-- 40_complex_arith.md R102: a sum, difference, product or quotient of finite numbers that is finite is a number nearest to the
exact one, and of two equally near ones the one with an even last bit; the same for `rdivn` by a power of two up to 2^26.
Magnitudes are in units of 2^−1074 (`f64Units`). -/
def Obligations.RoundsToNearestEven : Prop :=
  ∀ x y v : F64, f64IsFinite x = true → f64IsFinite y = true → f64IsFinite v = true →
    (f64IsFinite (f64Add x y) = true →
      |f64Units (f64Add x y) - (f64Units x + f64Units y)| ≤ |f64Units v - (f64Units x + f64Units y)| ∧
      (|f64Units (f64Add x y) - (f64Units x + f64Units y)| = |f64Units v - (f64Units x + f64Units y)| →
        f64Units v ≠ f64Units (f64Add x y) → f64Frac (f64Add x y) % 2 = 0)) ∧
    (f64IsFinite (f64Sub x y) = true →
      |f64Units (f64Sub x y) - (f64Units x - f64Units y)| ≤ |f64Units v - (f64Units x - f64Units y)| ∧
      (|f64Units (f64Sub x y) - (f64Units x - f64Units y)| = |f64Units v - (f64Units x - f64Units y)| →
        f64Units v ≠ f64Units (f64Sub x y) → f64Frac (f64Sub x y) % 2 = 0)) ∧
    (f64IsFinite (f64Mul x y) = true →
      |f64Units (f64Mul x y) * 2 ^ 1074 - f64Units x * f64Units y| ≤
        |f64Units v * 2 ^ 1074 - f64Units x * f64Units y| ∧
      (|f64Units (f64Mul x y) * 2 ^ 1074 - f64Units x * f64Units y| =
          |f64Units v * 2 ^ 1074 - f64Units x * f64Units y| →
        f64Units v ≠ f64Units (f64Mul x y) → f64Frac (f64Mul x y) % 2 = 0)) ∧
    (f64IsFinite (f64Div x y) = true →
      |f64Units (f64Div x y) * f64Units y - f64Units x * 2 ^ 1074| ≤
        |f64Units v * f64Units y - f64Units x * 2 ^ 1074| ∧
      (|f64Units (f64Div x y) * f64Units y - f64Units x * 2 ^ 1074| =
          |f64Units v * f64Units y - f64Units x * 2 ^ 1074| →
        f64Units v ≠ f64Units (f64Div x y) → f64Frac (f64Div x y) % 2 = 0)) ∧
    ∀ j, j ≤ 26 →
      f64IsFinite (f64DivN x (2 ^ j)) = true ∧
      |f64Units (f64DivN x (2 ^ j)) * 2 ^ j - f64Units x| ≤ |f64Units v * 2 ^ j - f64Units x| ∧
      (|f64Units (f64DivN x (2 ^ j)) * 2 ^ j - f64Units x| = |f64Units v * 2 ^ j - f64Units x| →
        f64Units v ≠ f64Units (f64DivN x (2 ^ j)) → f64Frac (f64DivN x (2 ^ j)) % 2 = 0)

/-! ## Reads of unwritten elements, refusals -/

/-- 20_memory.md R57, 60_exceptions.md R208: with PFAULT = 0 every read of an unwritten element by a micro-operation, a primitive
or the host ends in the uninitialised-element fault: both elements of SWAP and BFLY, CHTAB[K] and DMEM[K] in CMOD (K < N), each
CHTAB read of BKERN, AMEM[K] and BMEM[K] in PMUL, AMEM[K] and CHTAB[K] in WBACK, every element operand of a primitive, HostRead in
both forms (the model's treatment, as R57 asks; log 6). -/
def Obligations.UnwrittenReadFaults : Prop :=
  (∀ (s : State) (m : MemSel) (k j : Nat) (x : Cplx F64), s.dp.pfault = false → k < s.dp.size (memOf m) →
    Mem.get (s.dp.mem (memOf m)) k = none →
    exec (.swap m k j) s = .fault .uninitialisedElement ∧ exec (.bfly m j k) s = .fault .uninitialisedElement ∧
    (memRead numB64 (memOf m) j s.dp = .ok x →
      exec (.swap m j k) s = .fault .uninitialisedElement ∧ exec (.bfly m k j) s = .fault .uninitialisedElement)) ∧
  (∀ (s : State) (m : MemId) (k l : Nat) (dst a : COperand) (x : Cplx F64), s.dp.pfault = false → k < s.dp.size m →
    Mem.get (s.dp.mem m) k = none →
    exec (.cadd dst (.elem m k) a) s = .fault .uninitialisedElement ∧
    exec (.csub dst (.elem m k) a) s = .fault .uninitialisedElement ∧
    exec (.cmul dst (.elem m k) a) s = .fault .uninitialisedElement ∧
    exec (.conj dst (.elem m k)) s = .fault .uninitialisedElement ∧
    exec (.cdivn dst (.elem m k) l) s = .fault .uninitialisedElement ∧
    (readOperand numB64 a s.dp = .ok x →
      exec (.cadd dst a (.elem m k)) s = .fault .uninitialisedElement ∧
      exec (.csub dst a (.elem m k)) s = .fault .uninitialisedElement ∧
      exec (.cmul dst a (.elem m k)) s = .fault .uninitialisedElement)) ∧
  (∀ s : State, s.dp.pfault = false → s.dp.r.k < s.dp.r.n → s.dp.r.k < s.dp.par.nmax →
    (Mem.get s.dp.chtab s.dp.r.k = none → exec .cmod s = .fault .uninitialisedElement) ∧
    ((Mem.get s.dp.chtab s.dp.r.k).isSome = true → Mem.get s.dp.dmem s.dp.r.k = none →
      exec .cmod s = .fault .uninitialisedElement)) ∧
  (∀ s : State,
    (s.dp.r.k = 0 → 0 < s.dp.par.nmax → Mem.get s.dp.chtab 0 = none → exec .bkern s = .fault .uninitialisedElement) ∧
    (0 < s.dp.r.k → s.dp.r.k < s.dp.r.n → s.dp.r.k < s.dp.par.nmax → Mem.get s.dp.chtab s.dp.r.k = none →
      exec .bkern s = .fault .uninitialisedElement) ∧
    (0 < s.dp.r.k → s.dp.r.n ≤ s.dp.r.k → s.dp.r.l - s.dp.r.n < s.dp.r.k → s.dp.r.l - s.dp.r.k < s.dp.par.nmax →
      Mem.get s.dp.chtab (s.dp.r.l - s.dp.r.k) = none → exec .bkern s = .fault .uninitialisedElement)) ∧
  (∀ s : State, s.dp.r.k < s.dp.par.lmax →
    (Mem.get s.dp.amem s.dp.r.k = none →
      exec .pmul s = .fault .uninitialisedElement ∧ exec .wback s = .fault .uninitialisedElement) ∧
    ((Mem.get s.dp.amem s.dp.r.k).isSome = true → Mem.get s.dp.bmem s.dp.r.k = none →
      exec .pmul s = .fault .uninitialisedElement) ∧
    ((Mem.get s.dp.amem s.dp.r.k).isSome = true → s.dp.r.k < s.dp.par.nmax → Mem.get s.dp.chtab s.dp.r.k = none →
      exec .wback s = .fault .uninitialisedElement)) ∧
  ∀ (s : State) (k : Nat) (rest : List (HostMove F64)), s.dp.pfault = false → s.busy = false → k < s.dp.par.nmax →
    Mem.get s.dp.dmem k = none →
    (s.script = .hread k :: rest → step s = .fault .uninitialisedElement) ∧
    (∀ a len, busTarget s.dp.par a len = some (.elem k) → s.script = .busRead a len :: rest →
      step s = .fault .uninitialisedElement)

/-- 41_permute.md R131: the routines have no meaning at a length that is no power of two; the model refuses them by name
(log 15). -/
def Obligations.RoutinesRefuseOtherLengths : Prop :=
  ∀ (m : MemSel) (n : Nat) (sg : Sign) (s : State), (∀ k, n ≠ 2 ^ k) →
    exec (.bitrev m n) s = .refused .lengthNotPowerOfTwo ∧
    exec (.stages m n sg) s = .refused .lengthNotPowerOfTwo ∧
    exec (.fft2 m n sg) s = .refused .lengthNotPowerOfTwo

/-! ## Routines -/

/-- 41_permute.md R126: BITREV(M, n) at n = 2^k completes, new[rev_k(i)] = old[i], and nothing outside M[0..n−1] changes. Only
elements whose index is not its own reversal need be written (R129). -/
def Obligations.BitrevContract : Prop :=
  ∀ (m : MemSel) (k : Nat) (s : State), readable s.dp (memOf m) → 2 ^ k ≤ s.dp.size (memOf m) →
    (∀ i, i < 2 ^ k → revBits k i ≠ i → (Mem.get (s.dp.mem (memOf m)) i).isSome = true) →
    ∃ d, exec (.bitrev m (2 ^ k)) s = .next { s with dp := d } ∧
      (∀ i, i < 2 ^ k → Mem.get (d.mem (memOf m)) (revBits k i) = Mem.get (s.dp.mem (memOf m)) i) ∧
      sameBut s.dp d (memOf m) (2 ^ k) ∧ sameFixed s.dp d ∧ sameCommandRegs s.dp.r d.r

/-- 41_permute.md R130: BITREV twice leaves every element as it was, bit for bit, in every NUM. -/
def Obligations.BitrevInvolution : Prop :=
  ∀ (R : Type) (nm : Num R) (m : MemSel) (k : Nat) (d d1 d2 : Datapath R), readable d (memOf m) →
    2 ^ k ≤ d.size (memOf m) → bitrev nm m (2 ^ k) d = .ok d1 → bitrev nm m (2 ^ k) d1 = .ok d2 →
    ∀ m' i, Mem.get (d2.mem m') i = Mem.get (d.mem m') i

/-- 42_pow2_transform.md R141, R145: FFT2 and STAGES at a power of two complete on written elements, leave them written, and
touch nothing outside M[0..n−1] but the working registers of the permuter and the butterfly network. -/
def Obligations.TransformRoutinesComplete : Prop :=
  ∀ (m : MemSel) (k : Nat) (sg : Sign) (s : State), readable s.dp (memOf m) → 2 ^ k ≤ s.dp.size (memOf m) →
    writtenBelow (s.dp.mem (memOf m)) (2 ^ k) →
    (∃ d, exec (.stages m (2 ^ k) sg) s = .next { s with dp := d } ∧ writtenBelow (d.mem (memOf m)) (2 ^ k) ∧
      sameBut s.dp d (memOf m) (2 ^ k) ∧ sameFixed s.dp d ∧ sameCommandRegs s.dp.r d.r) ∧
    (∃ d, exec (.fft2 m (2 ^ k) sg) s = .next { s with dp := d } ∧ writtenBelow (d.mem (memOf m)) (2 ^ k) ∧
      sameBut s.dp d (memOf m) (2 ^ k) ∧ sameFixed s.dp d ∧ sameCommandRegs s.dp.r d.r)

/-- 42_pow2_transform.md R150: butterflies on disjoint pairs, each with its own twiddle factor, leave the same values in every
memory in either order, in every NUM. -/
def Obligations.ButterfliesCommute : Prop :=
  ∀ (R : Type) (nm : Num R) (m : MemSel) (lo hi lo' hi' : Nat) (w w' : Cplx R) (d d1 d2 e1 e2 : Datapath R),
    lo ≠ hi → lo' ≠ hi' → lo ≠ lo' → lo ≠ hi' → hi ≠ lo' → hi ≠ hi' →
    bfly nm m lo hi (d.withRegs (fun r => { r with w := w })) = .ok d1 →
    bfly nm m lo' hi' (d1.withRegs (fun r => { r with w := w' })) = .ok d2 →
    bfly nm m lo' hi' (d.withRegs (fun r => { r with w := w' })) = .ok e1 →
    bfly nm m lo hi (e1.withRegs (fun r => { r with w := w })) = .ok e2 →
    ∀ m' k, Mem.get (d2.mem m') k = Mem.get (e2.mem m') k

/-! ## The transforms under NUM_exact -/

/-- 42_pow2_transform.md R152: under NUM_exact FFT2(M, 2^k, s) completes and leaves the unnormalised transform of what M held:
M[j] = Σ old[i]·exp(s·2πi·ij/n). -/
def Obligations.Fft2ComputesDft : Prop :=
  ∀ (draw : Nat → Nat → Nat → ℝ) (m : MemSel) (k : Nat) (sg : Sign) (d : Datapath ℝ) (x : Nat → ℂ),
    readable d (memOf m) → 2 ^ k ≤ d.size (memOf m) → holds (d.mem (memOf m)) (2 ^ k) x →
    ∃ d', fft2 (numExact draw) m (2 ^ k) sg d = .ok d' ∧
      holds (d'.mem (memOf m)) (2 ^ k) (fun j => dft sg (2 ^ k) x j)

/-- 42_pow2_transform.md R153: under NUM_exact a forward and an inverse FFT2, in either order, leave n times the original. -/
def Obligations.Fft2RoundTrip : Prop :=
  ∀ (draw : Nat → Nat → Nat → ℝ) (m : MemSel) (k : Nat) (sg sg' : Sign) (d : Datapath ℝ) (x : Nat → ℂ), sg ≠ sg' →
    readable d (memOf m) → 2 ^ k ≤ d.size (memOf m) → holds (d.mem (memOf m)) (2 ^ k) x →
    ∃ d1 d2, fft2 (numExact draw) m (2 ^ k) sg d = .ok d1 ∧ fft2 (numExact draw) m (2 ^ k) sg' d1 = .ok d2 ∧
      holds (d2.mem (memOf m)) (2 ^ k) (fun i => (2 ^ k : ℂ) * x i)

/-- 43_general_transform.md R182: under NUM_exact the reduction of XFORM_GEN at N >= 2 completes and leaves the unnormalised
transform of DMEM[0..N−1] in DMEM[0..N−1], for every length that fits; and on the machine at NUM_exact the command XFORM_GEN, run
to its end, leaves that transform, also at N <= 1, where DMEM is unchanged. -/
def Obligations.GeneralTransformComputesDft : Prop :=
  (∀ (draw : Nat → Nat → Nat → ℝ) (d : Datapath ℝ) (x : Nat → ℂ), d.pfault = false → 2 ≤ d.r.n →
    d.r.n ≤ d.par.nmax → paddedLength d.r.n ≤ d.par.lmax → holds d.dmem d.r.n x →
    ∃ d', genFlow (numExact draw) d = .ok d' ∧ holds d'.dmem d.r.n (fun j => dft d.r.s d.r.n x j)) ∧
  ∀ (draw : Nat → Nat → Nat → ℝ) (g : Image ℝ) (n : Nat) (inv : Bool) (s : State.Of ℝ) (x : Nat → ℂ), s.Ready →
    s.script = [] → (n ≤ 1 ∨ acceptable s.dp.par 2 n) → holds s.dp.dmem n x →
    ∃ (t u : State.Of ℝ) (steps : Nat), perform (numExact draw) (.xformGen n inv) s = .next t ∧
      Host.Core.run (machineOf { num := numExact draw, image := g }) steps t = .next u ∧
      u.busy = false ∧ u.done = true ∧ u.err = false ∧
      holds u.dp.dmem n (fun j => dft (if inv then .pos else .neg) n x j) ∧ (n ≤ 1 → u.dp.dmem = s.dp.dmem)

/-- 43_general_transform.md R181: under NUM_exact steps 5 to 7 leave L times the circular convolution of AMEM and BMEM in AMEM. -/
def Obligations.ConvolutionOfWorkMemories : Prop :=
  ∀ (draw : Nat → Nat → Nat → ℝ) (k : Nat) (d : Datapath ℝ) (a b : Nat → ℂ), 2 ^ k ≤ d.par.lmax →
    holds d.amem (2 ^ k) a → holds d.bmem (2 ^ k) b →
    ∃ d1 d2 d3 d4, fft2 (numExact draw) .amem (2 ^ k) .neg d = .ok d1 ∧
      fft2 (numExact draw) .bmem (2 ^ k) .neg d1 = .ok d2 ∧ kLoop (pmul (numExact draw)) (2 ^ k) d2 = .ok d3 ∧
      fft2 (numExact draw) .amem (2 ^ k) .pos d3 = .ok d4 ∧
      holds d4.amem (2 ^ k) (fun j =>
        (2 ^ k : ℂ) * ∑ i ∈ Finset.range (2 ^ k), a i * b ((j + 2 ^ k - i) % 2 ^ k))

/-! ## The host -/

/-- 20_memory.md R58, R63, 60_exceptions.md R210: with BUSY = 0 and PFAULT = 0 the host's write of DMEM[k], k < NMAX, puts the
value there and changes no other element and no other state; its read of a written element returns the value and changes nothing
(that the answer stands in `rdata` is the model's own, log 11). At k >= NMAX both are refused, at any time (log 17). -/
def Obligations.HostAccessesElements : Prop :=
  (∀ (s : State) (k : Nat) (v : Cplx F64) (rest : List (HostMove F64)), s.Ready → k < s.dp.par.nmax →
    (s.script = .hwrite k v :: rest → ∃ d, step s = .next { s with script := rest, dp := d } ∧
      (∀ m k', Mem.get (d.mem m) k' = if m = .dmem ∧ k' = k then some v else Mem.get (s.dp.mem m) k') ∧
      d.r = s.dp.r ∧ sameFixed s.dp d) ∧
    (s.script = .hread k :: rest → Mem.get s.dp.dmem k = some v →
      step s = .next { s with script := rest, rdata := .elem v })) ∧
  ∀ (s : State) (k : Nat) (v : Cplx F64) (rest : List (HostMove F64)), s.dp.par.nmax ≤ k →
    (s.script = .hwrite k v :: rest → step s = .refused .noSuchElement) ∧
    (s.script = .hread k :: rest → step s = .refused .noSuchElement)

/-- 10_state.md R21, R22, R23: at any time, busy or not, a read of CMD returns 0, a read of STATUS returns its word, a write of
STATUS is ignored; none of them changes the core (that the answer stands in `rdata` is the model's own, log 11). A register number
other than 0 and 1 names no register and is refused (log 17). -/
def Obligations.RegisterAccesses : Prop :=
  ∀ (s : State) (w : Word) (r : Nat) (rest : List (HostMove F64)),
    (s.script = .regRead 0 :: rest → step s = .next { s with script := rest, rdata := .word 0#32 }) ∧
    (s.script = .regRead 1 :: rest → step s = .next { s with script := rest, rdata := .word (statusWord s) }) ∧
    (s.script = .regWrite 1 w :: rest → step s = .next { s with script := rest }) ∧
    (2 ≤ r → s.script = .regRead r :: rest → step s = .refused .noSuchRegister) ∧
    (2 ≤ r → s.script = .regWrite r w :: rest → step s = .refused .noSuchRegister)

/-- 10_state.md R22: the fields of the STATUS word: BUSY bit 0, DONE bit 1, ERR bit 2, PFAULT bit 3, ECODE bits 7:4, and bits
31:8 read as 0. -/
def Obligations.StatusWordFields : Prop :=
  ∀ s : State,
    (statusWord s).getLsbD 0 = s.busy ∧ (statusWord s).getLsbD 1 = s.done ∧ (statusWord s).getLsbD 2 = s.err ∧
      (statusWord s).getLsbD 3 = s.dp.pfault ∧ (statusWord s).extractLsb' 4 4 = s.ecode ∧
      (statusWord s).extractLsb' 8 24 = 0#24

/-- 20_memory.md R52, R53, R54, R58, at every ELEM_LAYOUT that gives the bytes of both components their own places: a bus write of
an element's bytes at DMEM_BASE + size·k is the write of element k, a bus read there answers its bytes, and the element read back
from its bytes is the element. CMD stands at REG_BASE and reads 0, STATUS stands at REG_BASE + 4 and a write of it is ignored. Every
other access, by its address or its width, read or write, is refused (whole accesses, told apart by width, and the refusal are the
model's reading, log 17, 19). At the default layout an element's bytes are those of the real part and then of the imaginary part,
least significant first. -/
def Obligations.BusImage : Prop :=
  (∀ (s : State) (k a : Nat) (v : Cplx F64) (rest : List (HostMove F64)), k < s.dp.par.nmax →
    layoutWf 8 s.dp.par.layout → a = s.dp.par.dmemBase + s.dp.par.layout.size * k →
    step { s with script := .busWrite a (elemBytes setupB64.image s.dp.par.layout v) :: rest } =
      step { s with script := .hwrite k v :: rest } ∧
    (s.Ready → Mem.get s.dp.dmem k = some v →
      step { s with script := .busRead a s.dp.par.layout.size :: rest } =
        .next { s with script := rest, rdata := .bytes (elemBytes setupB64.image s.dp.par.layout v) }) ∧
    elemOfBytes setupB64.image s.dp.par.layout (elemBytes setupB64.image s.dp.par.layout v) = v) ∧
  (∀ (s : State) (w : Word) (rest : List (HostMove F64)),
    step { s with script := .busRead s.dp.par.regBase 4 :: rest } =
      .next { s with script := rest, rdata := .bytes (wordBytes 0#32) } ∧
    step { s with script := .busRead (s.dp.par.regBase + 4) 4 :: rest } =
      .next { s with script := rest, rdata := .bytes (wordBytes (statusWord s)) } ∧
    step { s with script := .busWrite (s.dp.par.regBase + 4) (wordBytes w) :: rest } = .next { s with script := rest }) ∧
  (∀ (s : State) (a : Nat) (bs : List Byte) (rest : List (HostMove F64)),
    ¬ (bs.length = 4 ∧ (a = s.dp.par.regBase ∨ a = s.dp.par.regBase + 4)) →
    ¬ (bs.length = s.dp.par.layout.size ∧ ∃ k, k < s.dp.par.nmax ∧ a = s.dp.par.dmemBase + s.dp.par.layout.size * k) →
    step { s with script := .busRead a bs.length :: rest } = .refused .partialAccess ∧
    step { s with script := .busWrite a bs :: rest } = .refused .partialAccess) ∧
  ∀ v : Cplx F64,
    elemBytes setupB64.image Config.defaultLayout v = leBytes 8 v.re.toNat ++ leBytes 8 v.im.toNat

/-- 60_exceptions.md R206: a CMD write, an element write or an element read while BUSY = 1, each also as a bus access, sets PFAULT
and marks the run faulty (log 25); the running command carries on: BUSY, SEQ and the latched word are as they were. That every
register, AMEM, BMEM, CHTAB and every listed element of DMEM keep their values at that moment, and that the counter of free values
advances, is the model's choice (log 8). -/
def Obligations.AccessWhileBusyIsProtocolFault : Prop :=
  ∀ (s : State) (m : HostMove F64) (rest : List (HostMove F64)), s.script = m :: rest → s.busy = true →
    s.dp.pfault = false →
    ((∃ w, m = .regWrite 0 w) ∨ (∃ k v, m = .hwrite k v ∧ k < s.dp.par.nmax) ∨
      (∃ k, m = .hread k ∧ k < s.dp.par.nmax) ∨
      (∃ a bs, m = .busWrite a bs ∧ busTarget s.dp.par a bs.length = some (.reg 0)) ∨
      (∃ a bs k, m = .busWrite a bs ∧ busTarget s.dp.par a bs.length = some (.elem k)) ∨
      (∃ a len k, m = .busRead a len ∧ busTarget s.dp.par a len = some (.elem k))) →
    ∃ t, step s = .next t ∧ t.dp.pfault = true ∧ (statusWord t).getLsbD 3 = true ∧
      t = { s with script := rest, rdata := t.rdata, faulty := true,
                   dp := { s.dp with pfault := true, draws := s.dp.draws + 1 } }

/-- 10_state.md R22, 60_exceptions.md R206: PFAULT is sticky: a step that answers clears it only by a reset; and only a host
access while BUSY = 1 sets it. The mark of a faulty run is never cleared, by a reset neither, and is set only with PFAULT (log 25). -/
def Obligations.ProtocolFaultIsSticky : Prop :=
  ∀ s t : State, step s = .next t →
    (s.dp.pfault = true → t.dp.pfault = false → ∃ rest, s.script = .reset :: rest) ∧
    (s.dp.pfault = false → t.dp.pfault = true → s.busy = true ∧ ∃ m rest, s.script = m :: rest ∧
      m ≠ .wait ∧ m ≠ .tick ∧ m ≠ .reset) ∧
    (s.faulty = true → t.faulty = true) ∧ (s.faulty = false → t.faulty = true → t.dp.pfault = true)

/-- 60_exceptions.md R197 step 1, R206: while PFAULT = 1 what a read of DMEM returns is unspecified (a free value, whatever is
listed), and a command has no meaning (the model faults, log 9). -/
def Obligations.AfterProtocolFaultNothingIsPromised : Prop :=
  ∀ (s : State) (rest : List (HostMove F64)), s.dp.pfault = true →
    (∀ k, s.script = .hread k :: rest → k < s.dp.par.nmax → ∃ t, step s = .next t ∧
      t.rdata = .elem ⟨Config.freeComponent s.dp.draws k 0, Config.freeComponent s.dp.draws k 1⟩) ∧
    (∀ w, s.script = .regWrite 0 w :: rest → step s = .fault .commandAfterProtocolFault)

/-! ## Invariants and whole-machine rules -/

/-- The machine right after reset, with the parameters of log 1, meets the invariant. -/
def Obligations.InvariantAtReset : Prop := State.reset.Inv

/-- Every step keeps the invariant: the capacities within bounds, memories in canonical form (20_memory.md), STATUS legal
(10_state.md R22), PFAULT only in a run marked faulty (log 25), and the sequencer where R26, R27, R129, R143 to R145 have it, with
every hidden element it is going to read written (R35). -/
def Obligations.StepKeepsInvariant : Prop :=
  ∀ s t : State, s.Inv → step s = .next t → t.Inv

/-- 20_memory.md R57, R58: from a state that meets the invariant the sequencer forms no index outside a memory and is never
refused; the one way it stops is the read of an element of DMEM[0..N−1] that the host did not write. -/
def Obligations.SequencerStopsOnlyOnUnwrittenInput : Prop :=
  ∀ s : State, s.Inv → s.busy = true →
    (∃ t, coreStep s = .next t) ∨
      (coreStep s = .fault .uninitialisedElement ∧ s.dp.pfault = false ∧
        ∃ k, k < s.dp.r.n ∧ Mem.get s.dp.dmem k = none)

/-- 10_state.md R29, 43_general_transform.md R180: a step of the sequencer leaves DMEM[k] alone for k >= N, and during XFORM_GEN
no phase but G_WBACK writes DMEM. -/
def Obligations.SequencerKeepsToItsSequence : Prop :=
  ∀ s t : State, s.Inv → s.busy = true → coreStep s = .next t →
    (∀ k, s.dp.r.n ≤ k → Mem.get t.dp.dmem k = Mem.get s.dp.dmem k) ∧
    (s.dp.r.opc = 2#2 → s.seq ≠ .gWback → t.dp.dmem = s.dp.dmem)

/-- 20_memory.md R60, 60_exceptions.md R209: while BUSY = 0 no element of any memory changes but by a reset, or, an element of DMEM,
by a host write or a bus write of that very element; and BUSY goes to 1 only by a write to CMD. -/
def Obligations.IdleCoreTouchesNoMemory : Prop :=
  ∀ s t : State, s.busy = false → step s = .next t →
    (∀ m k, Mem.get (t.dp.mem m) k = Mem.get (s.dp.mem m) k ∨ (∃ rest, s.script = .reset :: rest) ∨
      (m = .dmem ∧ ∃ rest, (∃ v, s.script = .hwrite k v :: rest) ∨
        ∃ a bs, s.script = .busWrite a bs :: rest ∧ busTarget s.dp.par a bs.length = some (.elem k))) ∧
    (t.busy = true → ∃ m rest, s.script = m :: rest ∧
      ((∃ w, m = .regWrite 0 w) ∨ ∃ a bs, m = .busWrite a bs ∧ busTarget s.dp.par a bs.length = some (.reg 0)))

/-- 10_state.md R27, 42_pow2_transform.md R146: control depends on no data value: two busy cores that agree on everything but
memory contents and Complex registers agree on it again after a step of the sequencer, if both step. -/
def Obligations.ControlIgnoresData : Prop :=
  ∀ s1 s2 t1 t2 : State, s1.busy = true → sameControl s1 s2 → coreStep s1 = .next t1 → coreStep s2 = .next t2 →
    sameControl t1 t2

/-- 42_pow2_transform.md R154 (a): under NUM_b64 the transform of an impulse is all ones exactly, bit for bit, whatever finite
values the implementation's cosine and sine give in the twiddle table (that they are finite there: log 4). -/
def Obligations.ImpulseIsAllOnes : Prop :=
  ∀ (m : MemSel) (k : Nat) (sg : Sign) (s : State), readable s.dp (memOf m) → 2 ^ k ≤ s.dp.size (memOf m) →
    Mem.get (s.dp.mem (memOf m)) 0 = some ⟨0x3FF0000000000000#64, 0#64⟩ →
    (∀ i, 0 < i → i < 2 ^ k → Mem.get (s.dp.mem (memOf m)) i = some ⟨0#64, 0#64⟩) →
    ∃ d, exec (.fft2 m (2 ^ k) sg) s = .next { s with dp := d } ∧
      ∀ i, i < 2 ^ k → Mem.get (d.mem (memOf m)) i = some ⟨0x3FF0000000000000#64, 0#64⟩
end

