-- ==== Sys2Proof/Laws/Index.lean ====
section
/-! SUPPORT. Index arithmetic: the power-of-two test, bit reversal, and the mirrored counter of BITREV (41_permute.md R129). -/

namespace Sys2Proof.Machine

/-- The power-of-two test of 60_exceptions.md R201 says what its name says. -/
theorem isPow2_iff (n : Nat) : isPow2 n = true ↔ ∃ k, n = 2 ^ k := by
  constructor
  · intro h
    simp only [isPow2, Bool.and_eq_true, bne_iff_ne, ne_eq, beq_iff_eq] at h
    obtain ⟨h0, h1⟩ := h
    refine ⟨Nat.log2 n, ?_⟩
    have hle : 2 ^ Nat.log2 n ≤ n := Nat.log2_self_le h0
    by_contra hne
    have hlt : 2 ^ Nat.log2 n < n := by omega
    have hub : n < 2 ^ (Nat.log2 n + 1) := Nat.lt_log2_self
    have hbit : ∀ m, 2 ^ Nat.log2 n ≤ m → m < 2 ^ (Nat.log2 n + 1) → m.testBit (Nat.log2 n) = true := by
      intro m h1 h2
      have : m / 2 ^ Nat.log2 n = 1 := by
        apply Nat.div_eq_of_lt_le <;> [simpa using h1; (rw [pow_succ] at h2; simpa [mul_comm] using h2)]
      simp [Nat.testBit, Nat.shiftRight_eq_div_pow, this]
    have h2 : (n &&& (n - 1)).testBit (Nat.log2 n) = true := by
      rw [Nat.testBit_and, hbit n hle hub, hbit (n - 1) (by omega) (by omega)]
      rfl
    rw [h1] at h2
    simp at h2
  · rintro ⟨k, rfl⟩
    simp only [isPow2, Bool.and_eq_true, bne_iff_ne, ne_eq, beq_iff_eq]
    refine ⟨by positivity, ?_⟩
    rw [Nat.and_two_pow_sub_one_eq_mod]
    exact Nat.mod_self _

theorem revBits_lt (k i : Nat) : revBits k i < 2 ^ k := by
  induction k generalizing i with
  | zero => simp [revBits]
  | succ k ih =>
    have h1 := ih (i / 2)
    have h2 : i % 2 ≤ 1 := by omega
    have h3 : i % 2 * 2 ^ k ≤ 1 * 2 ^ k := Nat.mul_le_mul_right _ h2
    simp only [revBits, pow_succ]
    omega

@[simp] theorem revBits_zero_right (k : Nat) : revBits k 0 = 0 := by
  induction k with
  | zero => rfl
  | succ k ih => simp [revBits, ih]

theorem or_two_pow_of_lt {j k : Nat} (h : j < 2 ^ k) : j ||| 2 ^ k = 2 ^ k + j := by
  have := Nat.two_pow_add_eq_or_of_lt h 1
  simp only [mul_one] at this
  rw [this, Nat.or_comm]

theorem and_two_pow_of_lt {j k : Nat} (h : j < 2 ^ k) : j &&& 2 ^ k = 0 := by
  rw [Nat.and_two_pow, Nat.testBit_lt_two_pow h]
  simp

theorem testBit_two_pow_add {r k : Nat} (h : r < 2 ^ k) (i : Nat) :
    (2 ^ k + r).testBit i = (decide (i = k) || r.testBit i) := by
  rw [← or_two_pow_of_lt h, Nat.testBit_or, Nat.testBit_two_pow]
  by_cases hi : i = k
  · simp [hi]
  · simp [hi, Ne.symm hi]

/-- The mirrored counter advanced is the reversal of the next position: the step of R129's induction. `fuel` is the number of
turns the inner loop may take. -/
theorem mirrorCarry_rev {k fuel i : Nat} (hf : k ≤ fuel) (hi : i < 2 ^ k) :
    (mirrorCarry fuel (revBits k i) (2 ^ k >>> 1)).1 ||| (mirrorCarry fuel (revBits k i) (2 ^ k >>> 1)).2 =
      if i + 1 < 2 ^ k then revBits k (i + 1) else 0 := by
  induction k generalizing fuel i with
  | zero =>
    have : i = 0 := by simpa using hi
    subst this
    cases fuel <;> simp [mirrorCarry, revBits]
  | succ k ih =>
    obtain ⟨fuel, rfl⟩ : ∃ f, fuel = f + 1 := ⟨fuel - 1, by omega⟩
    have hp : 0 < 2 ^ k := by positivity
    have hr := revBits_lt k (i / 2)
    have hm : 2 ^ (k + 1) >>> 1 = 2 ^ k := by
      rw [Nat.shiftRight_eq_div_pow, pow_succ]; simp
    have hlt : i / 2 < 2 ^ k := by rw [pow_succ] at hi; omega
    rw [hm]
    rcases Nat.mod_two_eq_zero_or_one i with h0 | h1
    · have hj : revBits (k + 1) i = revBits k (i / 2) := by simp [revBits, h0]
      have hn : revBits (k + 1) (i + 1) = 2 ^ k + revBits k (i / 2) := by
        have e1 : (i + 1) % 2 = 1 := by omega
        have e2 : (i + 1) / 2 = i / 2 := by omega
        simp [revBits, e1, e2]
      have hlast : i + 1 < 2 ^ (k + 1) := by rw [pow_succ] at hi ⊢; omega
      rw [hj, mirrorCarry, if_neg (by rw [and_two_pow_of_lt hr]; simp), if_pos hlast, hn]
      exact or_two_pow_of_lt hr
    · have hj : revBits (k + 1) i = 2 ^ k + revBits k (i / 2) := by simp [revBits, h1]
      have hn : revBits (k + 1) (i + 1) = revBits k (i / 2 + 1) := by
        have e1 : (i + 1) % 2 = 0 := by omega
        have e2 : (i + 1) / 2 = i / 2 + 1 := by omega
        simp [revBits, e1, e2]
      have hand : (2 ^ k + revBits k (i / 2)) &&& 2 ^ k = 2 ^ k := by
        rw [Nat.and_two_pow, testBit_two_pow_add hr]; simp
      have hxor : (2 ^ k + revBits k (i / 2)) ^^^ 2 ^ k = revBits k (i / 2) := by
        apply Nat.eq_of_testBit_eq
        intro b
        rw [Nat.testBit_xor, testBit_two_pow_add hr, Nat.testBit_two_pow]
        by_cases hb : b = k
        · subst hb
          simp [Nat.testBit_lt_two_pow hr]
        · simp [hb, Ne.symm hb]
      rw [hj, mirrorCarry, if_pos ⟨by omega, by rw [hand]; omega⟩, hxor, ih (by omega) hlt, hn]
      have e : i / 2 + 1 < 2 ^ k ↔ i + 1 < 2 ^ (k + 1) := by rw [pow_succ]; omega
      simp only [e]

/-- R129: at a position below the last, the advanced counter is the reversal of the next position. -/
theorem mirrorAdvance_rev {k i : Nat} (hi : i + 1 < 2 ^ k) :
    (mirrorAdvance (2 ^ k) (revBits k i)).1 = revBits k (i + 1) := by
  have h := mirrorCarry_rev (k := k) (fuel := Nat.log2 (2 ^ k) + 1) (i := i) (by rw [Nat.log2_two_pow]; omega) (by omega)
  rw [if_pos hi] at h
  exact h

end Sys2Proof.Machine
end

