-- ==== Sys2Proof/Laws/State.lean ====
section
/-! SUPPORT. What each named update of the state leaves in each field: one lemma per field per update, true by rfl. -/

namespace Sys2Proof.Machine

variable {R : Type}

/-! ## The working registers -/

@[simp] theorem Regs.startPerm_opc (m : MemSel) (n : Nat) (r : Regs R) : (r.startPerm m n).opc = r.opc := rfl
@[simp] theorem Regs.startPerm_n (m : MemSel) (n : Nat) (r : Regs R) : (r.startPerm m n).n = r.n := rfl
@[simp] theorem Regs.startPerm_s (m : MemSel) (n : Nat) (r : Regs R) : (r.startPerm m n).s = r.s := rfl
@[simp] theorem Regs.startPerm_msel (m : MemSel) (n : Nat) (r : Regs R) : (r.startPerm m n).msel = m := rfl
@[simp] theorem Regs.startPerm_nn (m : MemSel) (n : Nat) (r : Regs R) : (r.startPerm m n).nn = n := rfl
@[simp] theorem Regs.startPerm_ss (m : MemSel) (n : Nat) (r : Regs R) : (r.startPerm m n).ss = r.ss := rfl
@[simp] theorem Regs.startPerm_i (m : MemSel) (n : Nat) (r : Regs R) : (r.startPerm m n).i = 0 := rfl
@[simp] theorem Regs.startPerm_j (m : MemSel) (n : Nat) (r : Regs R) : (r.startPerm m n).j = 0 := rfl
@[simp] theorem Regs.startPerm_msk (m : MemSel) (n : Nat) (r : Regs R) : (r.startPerm m n).msk = r.msk := rfl
@[simp] theorem Regs.startPerm_step (m : MemSel) (n : Nat) (r : Regs R) : (r.startPerm m n).step = r.step := rfl
@[simp] theorem Regs.startPerm_stride (m : MemSel) (n : Nat) (r : Regs R) : (r.startPerm m n).stride = r.stride := rfl
@[simp] theorem Regs.startPerm_g (m : MemSel) (n : Nat) (r : Regs R) : (r.startPerm m n).g = r.g := rfl
@[simp] theorem Regs.startPerm_lo (m : MemSel) (n : Nat) (r : Regs R) : (r.startPerm m n).lo = r.lo := rfl
@[simp] theorem Regs.startPerm_hi (m : MemSel) (n : Nat) (r : Regs R) : (r.startPerm m n).hi = r.hi := rfl
@[simp] theorem Regs.startPerm_w (m : MemSel) (n : Nat) (r : Regs R) : (r.startPerm m n).w = r.w := rfl
@[simp] theorem Regs.startPerm_p (m : MemSel) (n : Nat) (r : Regs R) : (r.startPerm m n).p = r.p := rfl
@[simp] theorem Regs.startPerm_t (m : MemSel) (n : Nat) (r : Regs R) : (r.startPerm m n).t = r.t := rfl
@[simp] theorem Regs.startPerm_l (m : MemSel) (n : Nat) (r : Regs R) : (r.startPerm m n).l = r.l := rfl
@[simp] theorem Regs.startPerm_k (m : MemSel) (n : Nat) (r : Regs R) : (r.startPerm m n).k = r.k := rfl
@[simp] theorem Regs.startPerm_z (m : MemSel) (n : Nat) (r : Regs R) : (r.startPerm m n).z = r.z := rfl

@[simp] theorem Regs.nextPerm_opc (r : Regs R) : r.nextPerm.opc = r.opc := rfl
@[simp] theorem Regs.nextPerm_n (r : Regs R) : r.nextPerm.n = r.n := rfl
@[simp] theorem Regs.nextPerm_s (r : Regs R) : r.nextPerm.s = r.s := rfl
@[simp] theorem Regs.nextPerm_msel (r : Regs R) : r.nextPerm.msel = r.msel := rfl
@[simp] theorem Regs.nextPerm_nn (r : Regs R) : r.nextPerm.nn = r.nn := rfl
@[simp] theorem Regs.nextPerm_ss (r : Regs R) : r.nextPerm.ss = r.ss := rfl
@[simp] theorem Regs.nextPerm_i (r : Regs R) : r.nextPerm.i = r.i + 1 := rfl
@[simp] theorem Regs.nextPerm_j (r : Regs R) : r.nextPerm.j = (mirrorAdvance r.nn r.j).1 := rfl
@[simp] theorem Regs.nextPerm_msk (r : Regs R) : r.nextPerm.msk = (mirrorAdvance r.nn r.j).2 := rfl
@[simp] theorem Regs.nextPerm_step (r : Regs R) : r.nextPerm.step = r.step := rfl
@[simp] theorem Regs.nextPerm_stride (r : Regs R) : r.nextPerm.stride = r.stride := rfl
@[simp] theorem Regs.nextPerm_g (r : Regs R) : r.nextPerm.g = r.g := rfl
@[simp] theorem Regs.nextPerm_lo (r : Regs R) : r.nextPerm.lo = r.lo := rfl
@[simp] theorem Regs.nextPerm_hi (r : Regs R) : r.nextPerm.hi = r.hi := rfl
@[simp] theorem Regs.nextPerm_w (r : Regs R) : r.nextPerm.w = r.w := rfl
@[simp] theorem Regs.nextPerm_p (r : Regs R) : r.nextPerm.p = r.p := rfl
@[simp] theorem Regs.nextPerm_t (r : Regs R) : r.nextPerm.t = r.t := rfl
@[simp] theorem Regs.nextPerm_l (r : Regs R) : r.nextPerm.l = r.l := rfl
@[simp] theorem Regs.nextPerm_k (r : Regs R) : r.nextPerm.k = r.k := rfl
@[simp] theorem Regs.nextPerm_z (r : Regs R) : r.nextPerm.z = r.z := rfl

@[simp] theorem Regs.startStages_opc (r : Regs R) : r.startStages.opc = r.opc := rfl
@[simp] theorem Regs.startStages_n (r : Regs R) : r.startStages.n = r.n := rfl
@[simp] theorem Regs.startStages_s (r : Regs R) : r.startStages.s = r.s := rfl
@[simp] theorem Regs.startStages_msel (r : Regs R) : r.startStages.msel = r.msel := rfl
@[simp] theorem Regs.startStages_nn (r : Regs R) : r.startStages.nn = r.nn := rfl
@[simp] theorem Regs.startStages_ss (r : Regs R) : r.startStages.ss = r.ss := rfl
@[simp] theorem Regs.startStages_i (r : Regs R) : r.startStages.i = r.i := rfl
@[simp] theorem Regs.startStages_j (r : Regs R) : r.startStages.j = r.j := rfl
@[simp] theorem Regs.startStages_msk (r : Regs R) : r.startStages.msk = r.msk := rfl
@[simp] theorem Regs.startStages_step (r : Regs R) : r.startStages.step = 1 := rfl
@[simp] theorem Regs.startStages_stride (r : Regs R) : r.startStages.stride = r.stride := rfl
@[simp] theorem Regs.startStages_g (r : Regs R) : r.startStages.g = r.g := rfl
@[simp] theorem Regs.startStages_lo (r : Regs R) : r.startStages.lo = r.lo := rfl
@[simp] theorem Regs.startStages_hi (r : Regs R) : r.startStages.hi = r.hi := rfl
@[simp] theorem Regs.startStages_w (r : Regs R) : r.startStages.w = r.w := rfl
@[simp] theorem Regs.startStages_p (r : Regs R) : r.startStages.p = r.p := rfl
@[simp] theorem Regs.startStages_t (r : Regs R) : r.startStages.t = r.t := rfl
@[simp] theorem Regs.startStages_l (r : Regs R) : r.startStages.l = r.l := rfl
@[simp] theorem Regs.startStages_k (r : Regs R) : r.startStages.k = r.k := rfl
@[simp] theorem Regs.startStages_z (r : Regs R) : r.startStages.z = r.z := rfl

@[simp] theorem Regs.startStage_opc (r : Regs R) : r.startStage.opc = r.opc := rfl
@[simp] theorem Regs.startStage_n (r : Regs R) : r.startStage.n = r.n := rfl
@[simp] theorem Regs.startStage_s (r : Regs R) : r.startStage.s = r.s := rfl
@[simp] theorem Regs.startStage_msel (r : Regs R) : r.startStage.msel = r.msel := rfl
@[simp] theorem Regs.startStage_nn (r : Regs R) : r.startStage.nn = r.nn := rfl
@[simp] theorem Regs.startStage_ss (r : Regs R) : r.startStage.ss = r.ss := rfl
@[simp] theorem Regs.startStage_i (r : Regs R) : r.startStage.i = r.i := rfl
@[simp] theorem Regs.startStage_j (r : Regs R) : r.startStage.j = r.j := rfl
@[simp] theorem Regs.startStage_msk (r : Regs R) : r.startStage.msk = r.msk := rfl
@[simp] theorem Regs.startStage_step (r : Regs R) : r.startStage.step = r.step := rfl
@[simp] theorem Regs.startStage_stride (r : Regs R) : r.startStage.stride = tableStride r.nn r.step := rfl
@[simp] theorem Regs.startStage_g (r : Regs R) : r.startStage.g = 0 := rfl
@[simp] theorem Regs.startStage_lo (r : Regs R) : r.startStage.lo = r.lo := rfl
@[simp] theorem Regs.startStage_hi (r : Regs R) : r.startStage.hi = r.hi := rfl
@[simp] theorem Regs.startStage_w (r : Regs R) : r.startStage.w = r.w := rfl
@[simp] theorem Regs.startStage_p (r : Regs R) : r.startStage.p = r.p := rfl
@[simp] theorem Regs.startStage_t (r : Regs R) : r.startStage.t = r.t := rfl
@[simp] theorem Regs.startStage_l (r : Regs R) : r.startStage.l = r.l := rfl
@[simp] theorem Regs.startStage_k (r : Regs R) : r.startStage.k = r.k := rfl
@[simp] theorem Regs.startStage_z (r : Regs R) : r.startStage.z = r.z := rfl

@[simp] theorem Regs.startGroup_opc (r : Regs R) : r.startGroup.opc = r.opc := rfl
@[simp] theorem Regs.startGroup_n (r : Regs R) : r.startGroup.n = r.n := rfl
@[simp] theorem Regs.startGroup_s (r : Regs R) : r.startGroup.s = r.s := rfl
@[simp] theorem Regs.startGroup_msel (r : Regs R) : r.startGroup.msel = r.msel := rfl
@[simp] theorem Regs.startGroup_nn (r : Regs R) : r.startGroup.nn = r.nn := rfl
@[simp] theorem Regs.startGroup_ss (r : Regs R) : r.startGroup.ss = r.ss := rfl
@[simp] theorem Regs.startGroup_i (r : Regs R) : r.startGroup.i = r.i := rfl
@[simp] theorem Regs.startGroup_j (r : Regs R) : r.startGroup.j = r.j := rfl
@[simp] theorem Regs.startGroup_msk (r : Regs R) : r.startGroup.msk = r.msk := rfl
@[simp] theorem Regs.startGroup_step (r : Regs R) : r.startGroup.step = r.step := rfl
@[simp] theorem Regs.startGroup_stride (r : Regs R) : r.startGroup.stride = r.stride := rfl
@[simp] theorem Regs.startGroup_g (r : Regs R) : r.startGroup.g = r.g := rfl
@[simp] theorem Regs.startGroup_lo (r : Regs R) : r.startGroup.lo = r.g := rfl
@[simp] theorem Regs.startGroup_hi (r : Regs R) : r.startGroup.hi = r.hi := rfl
@[simp] theorem Regs.startGroup_w (r : Regs R) : r.startGroup.w = r.w := rfl
@[simp] theorem Regs.startGroup_p (r : Regs R) : r.startGroup.p = r.p := rfl
@[simp] theorem Regs.startGroup_t (r : Regs R) : r.startGroup.t = r.t := rfl
@[simp] theorem Regs.startGroup_l (r : Regs R) : r.startGroup.l = r.l := rfl
@[simp] theorem Regs.startGroup_k (r : Regs R) : r.startGroup.k = r.k := rfl
@[simp] theorem Regs.startGroup_z (r : Regs R) : r.startGroup.z = r.z := rfl

@[simp] theorem Regs.startPair_opc (r : Regs R) : r.startPair.opc = r.opc := rfl
@[simp] theorem Regs.startPair_n (r : Regs R) : r.startPair.n = r.n := rfl
@[simp] theorem Regs.startPair_s (r : Regs R) : r.startPair.s = r.s := rfl
@[simp] theorem Regs.startPair_msel (r : Regs R) : r.startPair.msel = r.msel := rfl
@[simp] theorem Regs.startPair_nn (r : Regs R) : r.startPair.nn = r.nn := rfl
@[simp] theorem Regs.startPair_ss (r : Regs R) : r.startPair.ss = r.ss := rfl
@[simp] theorem Regs.startPair_i (r : Regs R) : r.startPair.i = r.i := rfl
@[simp] theorem Regs.startPair_j (r : Regs R) : r.startPair.j = r.j := rfl
@[simp] theorem Regs.startPair_msk (r : Regs R) : r.startPair.msk = r.msk := rfl
@[simp] theorem Regs.startPair_step (r : Regs R) : r.startPair.step = r.step := rfl
@[simp] theorem Regs.startPair_stride (r : Regs R) : r.startPair.stride = r.stride := rfl
@[simp] theorem Regs.startPair_g (r : Regs R) : r.startPair.g = r.g := rfl
@[simp] theorem Regs.startPair_lo (r : Regs R) : r.startPair.lo = r.lo := rfl
@[simp] theorem Regs.startPair_hi (r : Regs R) : r.startPair.hi = r.lo + r.step := rfl
@[simp] theorem Regs.startPair_w (r : Regs R) : r.startPair.w = r.w := rfl
@[simp] theorem Regs.startPair_p (r : Regs R) : r.startPair.p = r.p := rfl
@[simp] theorem Regs.startPair_t (r : Regs R) : r.startPair.t = r.t := rfl
@[simp] theorem Regs.startPair_l (r : Regs R) : r.startPair.l = r.l := rfl
@[simp] theorem Regs.startPair_k (r : Regs R) : r.startPair.k = r.k := rfl
@[simp] theorem Regs.startPair_z (r : Regs R) : r.startPair.z = r.z := rfl

@[simp] theorem Regs.nextPair_opc (r : Regs R) : r.nextPair.opc = r.opc := rfl
@[simp] theorem Regs.nextPair_n (r : Regs R) : r.nextPair.n = r.n := rfl
@[simp] theorem Regs.nextPair_s (r : Regs R) : r.nextPair.s = r.s := rfl
@[simp] theorem Regs.nextPair_msel (r : Regs R) : r.nextPair.msel = r.msel := rfl
@[simp] theorem Regs.nextPair_nn (r : Regs R) : r.nextPair.nn = r.nn := rfl
@[simp] theorem Regs.nextPair_ss (r : Regs R) : r.nextPair.ss = r.ss := rfl
@[simp] theorem Regs.nextPair_i (r : Regs R) : r.nextPair.i = r.i := rfl
@[simp] theorem Regs.nextPair_j (r : Regs R) : r.nextPair.j = r.j := rfl
@[simp] theorem Regs.nextPair_msk (r : Regs R) : r.nextPair.msk = r.msk := rfl
@[simp] theorem Regs.nextPair_step (r : Regs R) : r.nextPair.step = r.step := rfl
@[simp] theorem Regs.nextPair_stride (r : Regs R) : r.nextPair.stride = r.stride := rfl
@[simp] theorem Regs.nextPair_g (r : Regs R) : r.nextPair.g = r.g := rfl
@[simp] theorem Regs.nextPair_lo (r : Regs R) : r.nextPair.lo = r.lo + 2 * r.step := rfl
@[simp] theorem Regs.nextPair_hi (r : Regs R) : r.nextPair.hi = r.hi := rfl
@[simp] theorem Regs.nextPair_w (r : Regs R) : r.nextPair.w = r.w := rfl
@[simp] theorem Regs.nextPair_p (r : Regs R) : r.nextPair.p = r.p := rfl
@[simp] theorem Regs.nextPair_t (r : Regs R) : r.nextPair.t = r.t := rfl
@[simp] theorem Regs.nextPair_l (r : Regs R) : r.nextPair.l = r.l := rfl
@[simp] theorem Regs.nextPair_k (r : Regs R) : r.nextPair.k = r.k := rfl
@[simp] theorem Regs.nextPair_z (r : Regs R) : r.nextPair.z = r.z := rfl

@[simp] theorem Regs.nextGroup_opc (r : Regs R) : r.nextGroup.opc = r.opc := rfl
@[simp] theorem Regs.nextGroup_n (r : Regs R) : r.nextGroup.n = r.n := rfl
@[simp] theorem Regs.nextGroup_s (r : Regs R) : r.nextGroup.s = r.s := rfl
@[simp] theorem Regs.nextGroup_msel (r : Regs R) : r.nextGroup.msel = r.msel := rfl
@[simp] theorem Regs.nextGroup_nn (r : Regs R) : r.nextGroup.nn = r.nn := rfl
@[simp] theorem Regs.nextGroup_ss (r : Regs R) : r.nextGroup.ss = r.ss := rfl
@[simp] theorem Regs.nextGroup_i (r : Regs R) : r.nextGroup.i = r.i := rfl
@[simp] theorem Regs.nextGroup_j (r : Regs R) : r.nextGroup.j = r.j := rfl
@[simp] theorem Regs.nextGroup_msk (r : Regs R) : r.nextGroup.msk = r.msk := rfl
@[simp] theorem Regs.nextGroup_step (r : Regs R) : r.nextGroup.step = r.step := rfl
@[simp] theorem Regs.nextGroup_stride (r : Regs R) : r.nextGroup.stride = r.stride := rfl
@[simp] theorem Regs.nextGroup_g (r : Regs R) : r.nextGroup.g = r.g + 1 := rfl
@[simp] theorem Regs.nextGroup_lo (r : Regs R) : r.nextGroup.lo = r.lo := rfl
@[simp] theorem Regs.nextGroup_hi (r : Regs R) : r.nextGroup.hi = r.hi := rfl
@[simp] theorem Regs.nextGroup_w (r : Regs R) : r.nextGroup.w = r.w := rfl
@[simp] theorem Regs.nextGroup_p (r : Regs R) : r.nextGroup.p = r.p := rfl
@[simp] theorem Regs.nextGroup_t (r : Regs R) : r.nextGroup.t = r.t := rfl
@[simp] theorem Regs.nextGroup_l (r : Regs R) : r.nextGroup.l = r.l := rfl
@[simp] theorem Regs.nextGroup_k (r : Regs R) : r.nextGroup.k = r.k := rfl
@[simp] theorem Regs.nextGroup_z (r : Regs R) : r.nextGroup.z = r.z := rfl

@[simp] theorem Regs.nextStage_opc (r : Regs R) : r.nextStage.opc = r.opc := rfl
@[simp] theorem Regs.nextStage_n (r : Regs R) : r.nextStage.n = r.n := rfl
@[simp] theorem Regs.nextStage_s (r : Regs R) : r.nextStage.s = r.s := rfl
@[simp] theorem Regs.nextStage_msel (r : Regs R) : r.nextStage.msel = r.msel := rfl
@[simp] theorem Regs.nextStage_nn (r : Regs R) : r.nextStage.nn = r.nn := rfl
@[simp] theorem Regs.nextStage_ss (r : Regs R) : r.nextStage.ss = r.ss := rfl
@[simp] theorem Regs.nextStage_i (r : Regs R) : r.nextStage.i = r.i := rfl
@[simp] theorem Regs.nextStage_j (r : Regs R) : r.nextStage.j = r.j := rfl
@[simp] theorem Regs.nextStage_msk (r : Regs R) : r.nextStage.msk = r.msk := rfl
@[simp] theorem Regs.nextStage_step (r : Regs R) : r.nextStage.step = 2 * r.step := rfl
@[simp] theorem Regs.nextStage_stride (r : Regs R) : r.nextStage.stride = r.stride := rfl
@[simp] theorem Regs.nextStage_g (r : Regs R) : r.nextStage.g = r.g := rfl
@[simp] theorem Regs.nextStage_lo (r : Regs R) : r.nextStage.lo = r.lo := rfl
@[simp] theorem Regs.nextStage_hi (r : Regs R) : r.nextStage.hi = r.hi := rfl
@[simp] theorem Regs.nextStage_w (r : Regs R) : r.nextStage.w = r.w := rfl
@[simp] theorem Regs.nextStage_p (r : Regs R) : r.nextStage.p = r.p := rfl
@[simp] theorem Regs.nextStage_t (r : Regs R) : r.nextStage.t = r.t := rfl
@[simp] theorem Regs.nextStage_l (r : Regs R) : r.nextStage.l = r.l := rfl
@[simp] theorem Regs.nextStage_k (r : Regs R) : r.nextStage.k = r.k := rfl
@[simp] theorem Regs.nextStage_z (r : Regs R) : r.nextStage.z = r.z := rfl

@[simp] theorem Regs.enterPow2_opc (m : MemSel) (n : Nat) (sg : Sign) (r : Regs R) : (r.enterPow2 m n sg).opc = r.opc := rfl
@[simp] theorem Regs.enterPow2_n (m : MemSel) (n : Nat) (sg : Sign) (r : Regs R) : (r.enterPow2 m n sg).n = r.n := rfl
@[simp] theorem Regs.enterPow2_s (m : MemSel) (n : Nat) (sg : Sign) (r : Regs R) : (r.enterPow2 m n sg).s = r.s := rfl
@[simp] theorem Regs.enterPow2_msel (m : MemSel) (n : Nat) (sg : Sign) (r : Regs R) : (r.enterPow2 m n sg).msel = m := rfl
@[simp] theorem Regs.enterPow2_nn (m : MemSel) (n : Nat) (sg : Sign) (r : Regs R) : (r.enterPow2 m n sg).nn = n := rfl
@[simp] theorem Regs.enterPow2_ss (m : MemSel) (n : Nat) (sg : Sign) (r : Regs R) : (r.enterPow2 m n sg).ss = sg := rfl
@[simp] theorem Regs.enterPow2_i (m : MemSel) (n : Nat) (sg : Sign) (r : Regs R) : (r.enterPow2 m n sg).i = r.i := rfl
@[simp] theorem Regs.enterPow2_j (m : MemSel) (n : Nat) (sg : Sign) (r : Regs R) : (r.enterPow2 m n sg).j = r.j := rfl
@[simp] theorem Regs.enterPow2_msk (m : MemSel) (n : Nat) (sg : Sign) (r : Regs R) : (r.enterPow2 m n sg).msk = r.msk := rfl
@[simp] theorem Regs.enterPow2_step (m : MemSel) (n : Nat) (sg : Sign) (r : Regs R) : (r.enterPow2 m n sg).step = r.step := rfl
@[simp] theorem Regs.enterPow2_stride (m : MemSel) (n : Nat) (sg : Sign) (r : Regs R) : (r.enterPow2 m n sg).stride = r.stride := rfl
@[simp] theorem Regs.enterPow2_g (m : MemSel) (n : Nat) (sg : Sign) (r : Regs R) : (r.enterPow2 m n sg).g = r.g := rfl
@[simp] theorem Regs.enterPow2_lo (m : MemSel) (n : Nat) (sg : Sign) (r : Regs R) : (r.enterPow2 m n sg).lo = r.lo := rfl
@[simp] theorem Regs.enterPow2_hi (m : MemSel) (n : Nat) (sg : Sign) (r : Regs R) : (r.enterPow2 m n sg).hi = r.hi := rfl
@[simp] theorem Regs.enterPow2_w (m : MemSel) (n : Nat) (sg : Sign) (r : Regs R) : (r.enterPow2 m n sg).w = r.w := rfl
@[simp] theorem Regs.enterPow2_p (m : MemSel) (n : Nat) (sg : Sign) (r : Regs R) : (r.enterPow2 m n sg).p = r.p := rfl
@[simp] theorem Regs.enterPow2_t (m : MemSel) (n : Nat) (sg : Sign) (r : Regs R) : (r.enterPow2 m n sg).t = r.t := rfl
@[simp] theorem Regs.enterPow2_l (m : MemSel) (n : Nat) (sg : Sign) (r : Regs R) : (r.enterPow2 m n sg).l = r.l := rfl
@[simp] theorem Regs.enterPow2_k (m : MemSel) (n : Nat) (sg : Sign) (r : Regs R) : (r.enterPow2 m n sg).k = r.k := rfl
@[simp] theorem Regs.enterPow2_z (m : MemSel) (n : Nat) (sg : Sign) (r : Regs R) : (r.enterPow2 m n sg).z = r.z := rfl

@[simp] theorem Regs.startK_opc (r : Regs R) : r.startK.opc = r.opc := rfl
@[simp] theorem Regs.startK_n (r : Regs R) : r.startK.n = r.n := rfl
@[simp] theorem Regs.startK_s (r : Regs R) : r.startK.s = r.s := rfl
@[simp] theorem Regs.startK_msel (r : Regs R) : r.startK.msel = r.msel := rfl
@[simp] theorem Regs.startK_nn (r : Regs R) : r.startK.nn = r.nn := rfl
@[simp] theorem Regs.startK_ss (r : Regs R) : r.startK.ss = r.ss := rfl
@[simp] theorem Regs.startK_i (r : Regs R) : r.startK.i = r.i := rfl
@[simp] theorem Regs.startK_j (r : Regs R) : r.startK.j = r.j := rfl
@[simp] theorem Regs.startK_msk (r : Regs R) : r.startK.msk = r.msk := rfl
@[simp] theorem Regs.startK_step (r : Regs R) : r.startK.step = r.step := rfl
@[simp] theorem Regs.startK_stride (r : Regs R) : r.startK.stride = r.stride := rfl
@[simp] theorem Regs.startK_g (r : Regs R) : r.startK.g = r.g := rfl
@[simp] theorem Regs.startK_lo (r : Regs R) : r.startK.lo = r.lo := rfl
@[simp] theorem Regs.startK_hi (r : Regs R) : r.startK.hi = r.hi := rfl
@[simp] theorem Regs.startK_w (r : Regs R) : r.startK.w = r.w := rfl
@[simp] theorem Regs.startK_p (r : Regs R) : r.startK.p = r.p := rfl
@[simp] theorem Regs.startK_t (r : Regs R) : r.startK.t = r.t := rfl
@[simp] theorem Regs.startK_l (r : Regs R) : r.startK.l = r.l := rfl
@[simp] theorem Regs.startK_k (r : Regs R) : r.startK.k = 0 := rfl
@[simp] theorem Regs.startK_z (r : Regs R) : r.startK.z = r.z := rfl

@[simp] theorem Regs.nextK_opc (r : Regs R) : r.nextK.opc = r.opc := rfl
@[simp] theorem Regs.nextK_n (r : Regs R) : r.nextK.n = r.n := rfl
@[simp] theorem Regs.nextK_s (r : Regs R) : r.nextK.s = r.s := rfl
@[simp] theorem Regs.nextK_msel (r : Regs R) : r.nextK.msel = r.msel := rfl
@[simp] theorem Regs.nextK_nn (r : Regs R) : r.nextK.nn = r.nn := rfl
@[simp] theorem Regs.nextK_ss (r : Regs R) : r.nextK.ss = r.ss := rfl
@[simp] theorem Regs.nextK_i (r : Regs R) : r.nextK.i = r.i := rfl
@[simp] theorem Regs.nextK_j (r : Regs R) : r.nextK.j = r.j := rfl
@[simp] theorem Regs.nextK_msk (r : Regs R) : r.nextK.msk = r.msk := rfl
@[simp] theorem Regs.nextK_step (r : Regs R) : r.nextK.step = r.step := rfl
@[simp] theorem Regs.nextK_stride (r : Regs R) : r.nextK.stride = r.stride := rfl
@[simp] theorem Regs.nextK_g (r : Regs R) : r.nextK.g = r.g := rfl
@[simp] theorem Regs.nextK_lo (r : Regs R) : r.nextK.lo = r.lo := rfl
@[simp] theorem Regs.nextK_hi (r : Regs R) : r.nextK.hi = r.hi := rfl
@[simp] theorem Regs.nextK_w (r : Regs R) : r.nextK.w = r.w := rfl
@[simp] theorem Regs.nextK_p (r : Regs R) : r.nextK.p = r.p := rfl
@[simp] theorem Regs.nextK_t (r : Regs R) : r.nextK.t = r.t := rfl
@[simp] theorem Regs.nextK_l (r : Regs R) : r.nextK.l = r.l := rfl
@[simp] theorem Regs.nextK_k (r : Regs R) : r.nextK.k = r.k + 1 := rfl
@[simp] theorem Regs.nextK_z (r : Regs R) : r.nextK.z = r.z := rfl

/-! ## The datapath -/

@[simp] theorem Datapath.withRegs_par (d : Datapath R) (f : Regs R → Regs R) : (d.withRegs f).par = d.par := rfl
@[simp] theorem Datapath.withRegs_pfault (d : Datapath R) (f : Regs R → Regs R) : (d.withRegs f).pfault = d.pfault := rfl
@[simp] theorem Datapath.withRegs_draws (d : Datapath R) (f : Regs R → Regs R) : (d.withRegs f).draws = d.draws := rfl
@[simp] theorem Datapath.withRegs_dmem (d : Datapath R) (f : Regs R → Regs R) : (d.withRegs f).dmem = d.dmem := rfl
@[simp] theorem Datapath.withRegs_amem (d : Datapath R) (f : Regs R → Regs R) : (d.withRegs f).amem = d.amem := rfl
@[simp] theorem Datapath.withRegs_bmem (d : Datapath R) (f : Regs R → Regs R) : (d.withRegs f).bmem = d.bmem := rfl
@[simp] theorem Datapath.withRegs_chtab (d : Datapath R) (f : Regs R → Regs R) : (d.withRegs f).chtab = d.chtab := rfl
@[simp] theorem Datapath.withRegs_r (d : Datapath R) (f : Regs R → Regs R) : (d.withRegs f).r = f d.r := rfl

@[simp] theorem Datapath.setMem_dmem_par (d : Datapath R) (x : Mem R) : (d.setMem .dmem x).par = d.par := rfl
@[simp] theorem Datapath.setMem_dmem_pfault (d : Datapath R) (x : Mem R) : (d.setMem .dmem x).pfault = d.pfault := rfl
@[simp] theorem Datapath.setMem_dmem_draws (d : Datapath R) (x : Mem R) : (d.setMem .dmem x).draws = d.draws := rfl
@[simp] theorem Datapath.setMem_dmem_dmem (d : Datapath R) (x : Mem R) : (d.setMem .dmem x).dmem = x := rfl
@[simp] theorem Datapath.setMem_dmem_amem (d : Datapath R) (x : Mem R) : (d.setMem .dmem x).amem = d.amem := rfl
@[simp] theorem Datapath.setMem_dmem_bmem (d : Datapath R) (x : Mem R) : (d.setMem .dmem x).bmem = d.bmem := rfl
@[simp] theorem Datapath.setMem_dmem_chtab (d : Datapath R) (x : Mem R) : (d.setMem .dmem x).chtab = d.chtab := rfl
@[simp] theorem Datapath.setMem_dmem_r (d : Datapath R) (x : Mem R) : (d.setMem .dmem x).r = d.r := rfl
@[simp] theorem Datapath.setMem_amem_par (d : Datapath R) (x : Mem R) : (d.setMem .amem x).par = d.par := rfl
@[simp] theorem Datapath.setMem_amem_pfault (d : Datapath R) (x : Mem R) : (d.setMem .amem x).pfault = d.pfault := rfl
@[simp] theorem Datapath.setMem_amem_draws (d : Datapath R) (x : Mem R) : (d.setMem .amem x).draws = d.draws := rfl
@[simp] theorem Datapath.setMem_amem_dmem (d : Datapath R) (x : Mem R) : (d.setMem .amem x).dmem = d.dmem := rfl
@[simp] theorem Datapath.setMem_amem_amem (d : Datapath R) (x : Mem R) : (d.setMem .amem x).amem = x := rfl
@[simp] theorem Datapath.setMem_amem_bmem (d : Datapath R) (x : Mem R) : (d.setMem .amem x).bmem = d.bmem := rfl
@[simp] theorem Datapath.setMem_amem_chtab (d : Datapath R) (x : Mem R) : (d.setMem .amem x).chtab = d.chtab := rfl
@[simp] theorem Datapath.setMem_amem_r (d : Datapath R) (x : Mem R) : (d.setMem .amem x).r = d.r := rfl
@[simp] theorem Datapath.setMem_bmem_par (d : Datapath R) (x : Mem R) : (d.setMem .bmem x).par = d.par := rfl
@[simp] theorem Datapath.setMem_bmem_pfault (d : Datapath R) (x : Mem R) : (d.setMem .bmem x).pfault = d.pfault := rfl
@[simp] theorem Datapath.setMem_bmem_draws (d : Datapath R) (x : Mem R) : (d.setMem .bmem x).draws = d.draws := rfl
@[simp] theorem Datapath.setMem_bmem_dmem (d : Datapath R) (x : Mem R) : (d.setMem .bmem x).dmem = d.dmem := rfl
@[simp] theorem Datapath.setMem_bmem_amem (d : Datapath R) (x : Mem R) : (d.setMem .bmem x).amem = d.amem := rfl
@[simp] theorem Datapath.setMem_bmem_bmem (d : Datapath R) (x : Mem R) : (d.setMem .bmem x).bmem = x := rfl
@[simp] theorem Datapath.setMem_bmem_chtab (d : Datapath R) (x : Mem R) : (d.setMem .bmem x).chtab = d.chtab := rfl
@[simp] theorem Datapath.setMem_bmem_r (d : Datapath R) (x : Mem R) : (d.setMem .bmem x).r = d.r := rfl
@[simp] theorem Datapath.setMem_chtab_par (d : Datapath R) (x : Mem R) : (d.setMem .chtab x).par = d.par := rfl
@[simp] theorem Datapath.setMem_chtab_pfault (d : Datapath R) (x : Mem R) : (d.setMem .chtab x).pfault = d.pfault := rfl
@[simp] theorem Datapath.setMem_chtab_draws (d : Datapath R) (x : Mem R) : (d.setMem .chtab x).draws = d.draws := rfl
@[simp] theorem Datapath.setMem_chtab_dmem (d : Datapath R) (x : Mem R) : (d.setMem .chtab x).dmem = d.dmem := rfl
@[simp] theorem Datapath.setMem_chtab_amem (d : Datapath R) (x : Mem R) : (d.setMem .chtab x).amem = d.amem := rfl
@[simp] theorem Datapath.setMem_chtab_bmem (d : Datapath R) (x : Mem R) : (d.setMem .chtab x).bmem = d.bmem := rfl
@[simp] theorem Datapath.setMem_chtab_chtab (d : Datapath R) (x : Mem R) : (d.setMem .chtab x).chtab = x := rfl
@[simp] theorem Datapath.setMem_chtab_r (d : Datapath R) (x : Mem R) : (d.setMem .chtab x).r = d.r := rfl

/-! ## The control state -/

@[simp] theorem beginCommand_cmdl (w : Word) (s : State.Of R) : (beginCommand w s).cmdl = w := rfl
@[simp] theorem beginCommand_busy (w : Word) (s : State.Of R) : (beginCommand w s).busy = s.busy := rfl
@[simp] theorem beginCommand_done (w : Word) (s : State.Of R) : (beginCommand w s).done = false := rfl
@[simp] theorem beginCommand_err (w : Word) (s : State.Of R) : (beginCommand w s).err = false := rfl
@[simp] theorem beginCommand_ecode (w : Word) (s : State.Of R) : (beginCommand w s).ecode = 0#4 := rfl
@[simp] theorem beginCommand_seq (w : Word) (s : State.Of R) : (beginCommand w s).seq = s.seq := rfl
@[simp] theorem beginCommand_upos (w : Word) (s : State.Of R) : (beginCommand w s).upos = s.upos := rfl
@[simp] theorem beginCommand_dp (w : Word) (s : State.Of R) : (beginCommand w s).dp = s.dp := rfl
@[simp] theorem beginCommand_faulty (w : Word) (s : State.Of R) : (beginCommand w s).faulty = s.faulty := rfl
@[simp] theorem beginCommand_script (w : Word) (s : State.Of R) : (beginCommand w s).script = s.script := rfl
@[simp] theorem beginCommand_rdata (w : Word) (s : State.Of R) : (beginCommand w s).rdata = s.rdata := rfl

@[simp] theorem errorCompletion_cmdl (e : ErrCode) (s : State.Of R) : (errorCompletion e s).cmdl = s.cmdl := rfl
@[simp] theorem errorCompletion_busy (e : ErrCode) (s : State.Of R) : (errorCompletion e s).busy = s.busy := rfl
@[simp] theorem errorCompletion_done (e : ErrCode) (s : State.Of R) : (errorCompletion e s).done = s.done := rfl
@[simp] theorem errorCompletion_err (e : ErrCode) (s : State.Of R) : (errorCompletion e s).err = true := rfl
@[simp] theorem errorCompletion_ecode (e : ErrCode) (s : State.Of R) : (errorCompletion e s).ecode = e.code := rfl
@[simp] theorem errorCompletion_seq (e : ErrCode) (s : State.Of R) : (errorCompletion e s).seq = s.seq := rfl
@[simp] theorem errorCompletion_upos (e : ErrCode) (s : State.Of R) : (errorCompletion e s).upos = s.upos := rfl
@[simp] theorem errorCompletion_dp (e : ErrCode) (s : State.Of R) : (errorCompletion e s).dp = s.dp := rfl
@[simp] theorem errorCompletion_faulty (e : ErrCode) (s : State.Of R) : (errorCompletion e s).faulty = s.faulty := rfl
@[simp] theorem errorCompletion_script (e : ErrCode) (s : State.Of R) : (errorCompletion e s).script = s.script := rfl
@[simp] theorem errorCompletion_rdata (e : ErrCode) (s : State.Of R) : (errorCompletion e s).rdata = s.rdata := rfl

@[simp] theorem completeCommand_cmdl (s : State.Of R) : (completeCommand s).cmdl = s.cmdl := rfl
@[simp] theorem completeCommand_busy (s : State.Of R) : (completeCommand s).busy = false := rfl
@[simp] theorem completeCommand_done (s : State.Of R) : (completeCommand s).done = true := rfl
@[simp] theorem completeCommand_err (s : State.Of R) : (completeCommand s).err = s.err := rfl
@[simp] theorem completeCommand_ecode (s : State.Of R) : (completeCommand s).ecode = s.ecode := rfl
@[simp] theorem completeCommand_seq (s : State.Of R) : (completeCommand s).seq = .idle := rfl
@[simp] theorem completeCommand_upos (s : State.Of R) : (completeCommand s).upos = .single := rfl
@[simp] theorem completeCommand_dp (s : State.Of R) : (completeCommand s).dp = s.dp := rfl
@[simp] theorem completeCommand_faulty (s : State.Of R) : (completeCommand s).faulty = s.faulty := rfl
@[simp] theorem completeCommand_script (s : State.Of R) : (completeCommand s).script = s.script := rfl
@[simp] theorem completeCommand_rdata (s : State.Of R) : (completeCommand s).rdata = s.rdata := rfl

@[simp] theorem protocolFault_cmdl (s : State.Of R) : (protocolFault s).cmdl = s.cmdl := rfl
@[simp] theorem protocolFault_busy (s : State.Of R) : (protocolFault s).busy = s.busy := rfl
@[simp] theorem protocolFault_done (s : State.Of R) : (protocolFault s).done = s.done := rfl
@[simp] theorem protocolFault_err (s : State.Of R) : (protocolFault s).err = s.err := rfl
@[simp] theorem protocolFault_ecode (s : State.Of R) : (protocolFault s).ecode = s.ecode := rfl
@[simp] theorem protocolFault_seq (s : State.Of R) : (protocolFault s).seq = s.seq := rfl
@[simp] theorem protocolFault_upos (s : State.Of R) : (protocolFault s).upos = s.upos := rfl
@[simp] theorem protocolFault_dp (s : State.Of R) : (protocolFault s).dp = { s.dp with pfault := true, draws := s.dp.draws + 1 } := rfl
@[simp] theorem protocolFault_faulty (s : State.Of R) : (protocolFault s).faulty = true := rfl
@[simp] theorem protocolFault_script (s : State.Of R) : (protocolFault s).script = s.script := rfl
@[simp] theorem protocolFault_rdata (s : State.Of R) : (protocolFault s).rdata = s.rdata := rfl

@[simp] theorem State.Of.withRegs_cmdl (s : State.Of R) (f : Regs R → Regs R) : (s.withRegs f).cmdl = s.cmdl := rfl
@[simp] theorem State.Of.withRegs_busy (s : State.Of R) (f : Regs R → Regs R) : (s.withRegs f).busy = s.busy := rfl
@[simp] theorem State.Of.withRegs_done (s : State.Of R) (f : Regs R → Regs R) : (s.withRegs f).done = s.done := rfl
@[simp] theorem State.Of.withRegs_err (s : State.Of R) (f : Regs R → Regs R) : (s.withRegs f).err = s.err := rfl
@[simp] theorem State.Of.withRegs_ecode (s : State.Of R) (f : Regs R → Regs R) : (s.withRegs f).ecode = s.ecode := rfl
@[simp] theorem State.Of.withRegs_seq (s : State.Of R) (f : Regs R → Regs R) : (s.withRegs f).seq = s.seq := rfl
@[simp] theorem State.Of.withRegs_upos (s : State.Of R) (f : Regs R → Regs R) : (s.withRegs f).upos = s.upos := rfl
@[simp] theorem State.Of.withRegs_dp (s : State.Of R) (f : Regs R → Regs R) : (s.withRegs f).dp = s.dp.withRegs f := rfl
@[simp] theorem State.Of.withRegs_faulty (s : State.Of R) (f : Regs R → Regs R) : (s.withRegs f).faulty = s.faulty := rfl
@[simp] theorem State.Of.withRegs_script (s : State.Of R) (f : Regs R → Regs R) : (s.withRegs f).script = s.script := rfl
@[simp] theorem State.Of.withRegs_rdata (s : State.Of R) (f : Regs R → Regs R) : (s.withRegs f).rdata = s.rdata := rfl

@[simp] theorem startPerm_cmdl (ph : Phase) (m : MemSel) (n : Nat) (s : State.Of R) : (startPerm ph m n s).cmdl = s.cmdl := rfl
@[simp] theorem startPerm_busy (ph : Phase) (m : MemSel) (n : Nat) (s : State.Of R) : (startPerm ph m n s).busy = s.busy := rfl
@[simp] theorem startPerm_done (ph : Phase) (m : MemSel) (n : Nat) (s : State.Of R) : (startPerm ph m n s).done = s.done := rfl
@[simp] theorem startPerm_err (ph : Phase) (m : MemSel) (n : Nat) (s : State.Of R) : (startPerm ph m n s).err = s.err := rfl
@[simp] theorem startPerm_ecode (ph : Phase) (m : MemSel) (n : Nat) (s : State.Of R) : (startPerm ph m n s).ecode = s.ecode := rfl
@[simp] theorem startPerm_seq (ph : Phase) (m : MemSel) (n : Nat) (s : State.Of R) : (startPerm ph m n s).seq = ph := rfl
@[simp] theorem startPerm_upos (ph : Phase) (m : MemSel) (n : Nat) (s : State.Of R) : (startPerm ph m n s).upos = .perm := rfl
@[simp] theorem startPerm_dp (ph : Phase) (m : MemSel) (n : Nat) (s : State.Of R) : (startPerm ph m n s).dp = s.dp.withRegs (Regs.startPerm m n) := rfl
@[simp] theorem startPerm_faulty (ph : Phase) (m : MemSel) (n : Nat) (s : State.Of R) : (startPerm ph m n s).faulty = s.faulty := rfl
@[simp] theorem startPerm_script (ph : Phase) (m : MemSel) (n : Nat) (s : State.Of R) : (startPerm ph m n s).script = s.script := rfl
@[simp] theorem startPerm_rdata (ph : Phase) (m : MemSel) (n : Nat) (s : State.Of R) : (startPerm ph m n s).rdata = s.rdata := rfl

@[simp] theorem startFft_cmdl (ph : Phase) (m : MemSel) (n : Nat) (sg : Sign) (s : State.Of R) : (startFft ph m n sg s).cmdl = s.cmdl := rfl
@[simp] theorem startFft_busy (ph : Phase) (m : MemSel) (n : Nat) (sg : Sign) (s : State.Of R) : (startFft ph m n sg s).busy = s.busy := rfl
@[simp] theorem startFft_done (ph : Phase) (m : MemSel) (n : Nat) (sg : Sign) (s : State.Of R) : (startFft ph m n sg s).done = s.done := rfl
@[simp] theorem startFft_err (ph : Phase) (m : MemSel) (n : Nat) (sg : Sign) (s : State.Of R) : (startFft ph m n sg s).err = s.err := rfl
@[simp] theorem startFft_ecode (ph : Phase) (m : MemSel) (n : Nat) (sg : Sign) (s : State.Of R) : (startFft ph m n sg s).ecode = s.ecode := rfl
@[simp] theorem startFft_seq (ph : Phase) (m : MemSel) (n : Nat) (sg : Sign) (s : State.Of R) : (startFft ph m n sg s).seq = ph := rfl
@[simp] theorem startFft_upos (ph : Phase) (m : MemSel) (n : Nat) (sg : Sign) (s : State.Of R) : (startFft ph m n sg s).upos = .perm := rfl
@[simp] theorem startFft_dp (ph : Phase) (m : MemSel) (n : Nat) (sg : Sign) (s : State.Of R) : (startFft ph m n sg s).dp = s.dp.withRegs (fun r => (r.enterPow2 m n sg).startPerm m n) := rfl
@[simp] theorem startFft_faulty (ph : Phase) (m : MemSel) (n : Nat) (sg : Sign) (s : State.Of R) : (startFft ph m n sg s).faulty = s.faulty := rfl
@[simp] theorem startFft_script (ph : Phase) (m : MemSel) (n : Nat) (sg : Sign) (s : State.Of R) : (startFft ph m n sg s).script = s.script := rfl
@[simp] theorem startFft_rdata (ph : Phase) (m : MemSel) (n : Nat) (sg : Sign) (s : State.Of R) : (startFft ph m n sg s).rdata = s.rdata := rfl

@[simp] theorem startKPhase_cmdl (ph : Phase) (s : State.Of R) : (startKPhase ph s).cmdl = s.cmdl := rfl
@[simp] theorem startKPhase_busy (ph : Phase) (s : State.Of R) : (startKPhase ph s).busy = s.busy := rfl
@[simp] theorem startKPhase_done (ph : Phase) (s : State.Of R) : (startKPhase ph s).done = s.done := rfl
@[simp] theorem startKPhase_err (ph : Phase) (s : State.Of R) : (startKPhase ph s).err = s.err := rfl
@[simp] theorem startKPhase_ecode (ph : Phase) (s : State.Of R) : (startKPhase ph s).ecode = s.ecode := rfl
@[simp] theorem startKPhase_seq (ph : Phase) (s : State.Of R) : (startKPhase ph s).seq = ph := rfl
@[simp] theorem startKPhase_upos (ph : Phase) (s : State.Of R) : (startKPhase ph s).upos = .single := rfl
@[simp] theorem startKPhase_dp (ph : Phase) (s : State.Of R) : (startKPhase ph s).dp = s.dp.withRegs Regs.startK := rfl
@[simp] theorem startKPhase_faulty (ph : Phase) (s : State.Of R) : (startKPhase ph s).faulty = s.faulty := rfl
@[simp] theorem startKPhase_script (ph : Phase) (s : State.Of R) : (startKPhase ph s).script = s.script := rfl
@[simp] theorem startKPhase_rdata (ph : Phase) (s : State.Of R) : (startKPhase ph s).rdata = s.rdata := rfl

@[simp] theorem advanceTwld_cmdl (s : State.Of R) : (advanceTwld s).cmdl = s.cmdl := rfl
@[simp] theorem advanceTwld_busy (s : State.Of R) : (advanceTwld s).busy = s.busy := rfl
@[simp] theorem advanceTwld_done (s : State.Of R) : (advanceTwld s).done = s.done := rfl
@[simp] theorem advanceTwld_err (s : State.Of R) : (advanceTwld s).err = s.err := rfl
@[simp] theorem advanceTwld_ecode (s : State.Of R) : (advanceTwld s).ecode = s.ecode := rfl
@[simp] theorem advanceTwld_seq (s : State.Of R) : (advanceTwld s).seq = s.seq := rfl
@[simp] theorem advanceTwld_upos (s : State.Of R) : (advanceTwld s).upos = .bfly := rfl
@[simp] theorem advanceTwld_dp (s : State.Of R) : (advanceTwld s).dp = s.dp.withRegs (fun r => r.startGroup.startPair) := rfl
@[simp] theorem advanceTwld_faulty (s : State.Of R) : (advanceTwld s).faulty = s.faulty := rfl
@[simp] theorem advanceTwld_script (s : State.Of R) : (advanceTwld s).script = s.script := rfl
@[simp] theorem advanceTwld_rdata (s : State.Of R) : (advanceTwld s).rdata = s.rdata := rfl

@[simp] theorem applyReset_cmdl (nm : Num R) (s : State.Of R) : (applyReset nm s).cmdl = 0#32 := rfl
@[simp] theorem applyReset_busy (nm : Num R) (s : State.Of R) : (applyReset nm s).busy = false := rfl
@[simp] theorem applyReset_done (nm : Num R) (s : State.Of R) : (applyReset nm s).done = false := rfl
@[simp] theorem applyReset_err (nm : Num R) (s : State.Of R) : (applyReset nm s).err = false := rfl
@[simp] theorem applyReset_ecode (nm : Num R) (s : State.Of R) : (applyReset nm s).ecode = 0#4 := rfl
@[simp] theorem applyReset_seq (nm : Num R) (s : State.Of R) : (applyReset nm s).seq = .idle := rfl
@[simp] theorem applyReset_upos (nm : Num R) (s : State.Of R) : (applyReset nm s).upos = .single := rfl
@[simp] theorem applyReset_dp (nm : Num R) (s : State.Of R) : (applyReset nm s).dp = { Datapath.resetWith (czero nm) with par := s.dp.par, draws := s.dp.draws } := rfl
@[simp] theorem applyReset_faulty (nm : Num R) (s : State.Of R) : (applyReset nm s).faulty = s.faulty := rfl
@[simp] theorem applyReset_script (nm : Num R) (s : State.Of R) : (applyReset nm s).script = s.script := rfl
@[simp] theorem applyReset_rdata (nm : Num R) (s : State.Of R) : (applyReset nm s).rdata = s.rdata := rfl

end Sys2Proof.Machine
end

