-- ==== Sys2Proof/Laws/Memory.lean ====
section
/-! SUPPORT. The laws of a memory (20_memory.md R55, R56): read after write, other elements untouched, the canonical form kept; and
the one lemma of each shared operation over memories that says all it can do. -/

namespace Sys2Proof.Machine

variable {R : Type}

/-! ## A memory as a list -/

@[simp] theorem Mem.get_nil (k : Nat) : Mem.get ([] : Mem R) k = none := rfl

theorem Mem.get_set_same (m : Mem R) (k : Nat) (v : Cplx R) : Mem.get (Mem.set m k v) k = some v := by
  induction m with
  | nil => simp [Mem.set, Mem.get]
  | cons c rest ih =>
    obtain ⟨a, u⟩ := c
    simp only [Mem.set]
    split
    · simp [Mem.get]
    · split
      · simp [Mem.get]
      · rename_i h
        simpa [Mem.get, Ne.symm h] using ih

theorem Mem.get_set_other (m : Mem R) {k k' : Nat} (v : Cplx R) (h : k' ≠ k) :
    Mem.get (Mem.set m k v) k' = Mem.get m k' := by
  induction m with
  | nil => simp [Mem.set, Mem.get, Ne.symm h]
  | cons c rest ih =>
    obtain ⟨a, u⟩ := c
    simp only [Mem.set]
    split
    · simp [Mem.get, Ne.symm h]
    · split
      · rename_i e
        simp [Mem.get, ← e, Ne.symm h]
      · simp only [Mem.get, ih]

/-- Read after write, in one equation. -/
theorem Mem.get_set (m : Mem R) (k k' : Nat) (v : Cplx R) :
    Mem.get (Mem.set m k v) k' = if k' = k then some v else Mem.get m k' := by
  by_cases h : k' = k
  · subst h; simp [Mem.get_set_same]
  · simp [h, Mem.get_set_other m v h]

theorem Mem.wfFrom_mono {size f f' : Nat} {m : Mem R} (h : f' ≤ f) (hm : Mem.wfFrom size f m = true) :
    Mem.wfFrom size f' m = true := by
  cases m with
  | nil => rfl
  | cons c rest =>
    obtain ⟨a, v⟩ := c
    simp only [Mem.wfFrom, Bool.and_eq_true, decide_eq_true_eq] at hm ⊢
    exact ⟨⟨by omega, hm.1.2⟩, hm.2⟩

theorem Mem.wfFrom_set {size k f : Nat} {m : Mem R} (v : Cplx R) (hk : k < size) (hf : f ≤ k)
    (hm : Mem.wfFrom size f m = true) : Mem.wfFrom size f (Mem.set m k v) = true := by
  induction m generalizing f with
  | nil => simp [Mem.set, Mem.wfFrom, hk, hf]
  | cons c rest ih =>
    obtain ⟨a, u⟩ := c
    simp only [Mem.wfFrom, Bool.and_eq_true, decide_eq_true_eq] at hm
    obtain ⟨⟨h1, h2⟩, h3⟩ := hm
    simp only [Mem.set]
    split
    · simp [Mem.wfFrom, hk, hf, h2, h3]; omega
    · split
      · rename_i e
        subst e
        simp [Mem.wfFrom, hk, hf, h3]
      · have := ih (f := a + 1) (by omega) h3
        simp [Mem.wfFrom, h1, h2, this]

/-- A write keeps the canonical form. -/
theorem Mem.wf_set {size k : Nat} {m : Mem R} (v : Cplx R) (hk : k < size) (hm : Mem.wf size m = true) :
    Mem.wf size (Mem.set m k v) = true :=
  Mem.wfFrom_set v hk (Nat.zero_le k) hm

theorem Mem.get_none_of_lt {size f k : Nat} {m : Mem R} (hm : Mem.wfFrom size f m = true) (hk : k < f) :
    Mem.get m k = none := by
  induction m generalizing f with
  | nil => rfl
  | cons c rest ih =>
    obtain ⟨a, v⟩ := c
    simp only [Mem.wfFrom, Bool.and_eq_true, decide_eq_true_eq] at hm
    have ha : a ≠ k := by omega
    simp [Mem.get, ha, ih hm.2 (by omega)]

/-- In canonical form no element at or above the size is written. -/
theorem Mem.get_none_of_size_le {size f k : Nat} {m : Mem R} (hm : Mem.wfFrom size f m = true) (hk : size ≤ k) :
    Mem.get m k = none := by
  induction m generalizing f with
  | nil => rfl
  | cons c rest ih =>
    obtain ⟨a, v⟩ := c
    simp only [Mem.wfFrom, Bool.and_eq_true, decide_eq_true_eq] at hm
    have ha : a ≠ k := by omega
    simp [Mem.get, ha, ih hm.2]

/-- Two memories in canonical form that read alike are equal data. -/
theorem Mem.ext_of_wf {size f f' : Nat} {m m' : Mem R} (hm : Mem.wfFrom size f m = true)
    (hm' : Mem.wfFrom size f' m' = true) (h : ∀ k, Mem.get m k = Mem.get m' k) : m = m' := by
  induction m generalizing f f' m' with
  | nil =>
    cases m' with
    | nil => rfl
    | cons c rest =>
      have := h c.1
      simp [Mem.get] at this
  | cons c rest ih =>
    obtain ⟨a, v⟩ := c
    cases m' with
    | nil =>
      have := h a
      simp [Mem.get] at this
    | cons c' rest' =>
      obtain ⟨a', v'⟩ := c'
      simp only [Mem.wfFrom, Bool.and_eq_true, decide_eq_true_eq] at hm hm'
      have haa : a = a' := by
        rcases Nat.lt_trichotomy a a' with hlt | heq | hgt
        · have h1 := h a
          have h2 : a' ≠ a := by omega
          simp [Mem.get, h2, Mem.get_none_of_lt hm'.2 (show a < a' + 1 by omega)] at h1
        · exact heq
        · have h1 := h a'
          have h2 : a ≠ a' := by omega
          simp [Mem.get, h2, Mem.get_none_of_lt hm.2 (show a' < a + 1 by omega)] at h1
      subst haa
      have hv : v = v' := by
        have h1 := h a
        simpa [Mem.get] using h1
      subst hv
      have hrest : ∀ k, Mem.get rest k = Mem.get rest' k := by
        intro k
        by_cases hk : a = k
        · subst hk
          rw [Mem.get_none_of_lt hm.2 (Nat.lt_succ_self a), Mem.get_none_of_lt hm'.2 (Nat.lt_succ_self a)]
        · have h1 := h k
          simpa [Mem.get, hk] using h1
      rw [ih hm.2 hm'.2 hrest]

/-! ## Memories of the datapath -/

@[simp] theorem Datapath.mem_setMem_same (d : Datapath R) (m : MemId) (x : Mem R) : (d.setMem m x).mem m = x := by
  cases m <;> rfl

theorem Datapath.mem_setMem_other (d : Datapath R) {m m' : MemId} (x : Mem R) (h : m' ≠ m) :
    (d.setMem m x).mem m' = d.mem m' := by
  cases m <;> cases m' <;> first | rfl | exact absurd rfl h

@[simp] theorem Datapath.setMem_par (d : Datapath R) (m : MemId) (x : Mem R) : (d.setMem m x).par = d.par := by
  cases m <;> rfl

@[simp] theorem Datapath.setMem_pfault (d : Datapath R) (m : MemId) (x : Mem R) : (d.setMem m x).pfault = d.pfault := by
  cases m <;> rfl

@[simp] theorem Datapath.setMem_draws (d : Datapath R) (m : MemId) (x : Mem R) : (d.setMem m x).draws = d.draws := by
  cases m <;> rfl

@[simp] theorem Datapath.setMem_r (d : Datapath R) (m : MemId) (x : Mem R) : (d.setMem m x).r = d.r := by
  cases m <;> rfl

@[simp] theorem Datapath.setMem_size (d : Datapath R) (m m' : MemId) (x : Mem R) :
    (d.setMem m x).size m' = d.size m' := by
  cases m <;> cases m' <;> rfl

@[simp] theorem Datapath.withRegs_mem (d : Datapath R) (f : Regs R → Regs R) (m : MemId) :
    (d.withRegs f).mem m = d.mem m := by
  cases m <;> rfl

@[simp] theorem Datapath.withRegs_size (d : Datapath R) (f : Regs R → Regs R) (m : MemId) :
    (d.withRegs f).size m = d.size m := by
  cases m <;> rfl

/-! ## MemRead and MemWrite -/

/-- All a read can answer. -/
theorem memRead_cases (nm : Num R) (m : MemId) (k : Nat) (d : Datapath R) :
    (d.size m ≤ k ∧ memRead nm m k d = .error .indexOutOfRange) ∨
    (k < d.size m ∧ d.pfault = true ∧ m = .dmem ∧ memRead nm m k d = .ok (freeElem nm d.draws k)) ∨
    (k < d.size m ∧ ¬ (d.pfault = true ∧ m = .dmem) ∧ Mem.get (d.mem m) k = none ∧
      memRead nm m k d = .error .uninitialisedElement) ∨
    (k < d.size m ∧ ¬ (d.pfault = true ∧ m = .dmem) ∧
      ∃ v, Mem.get (d.mem m) k = some v ∧ memRead nm m k d = .ok v) := by
  unfold memRead
  by_cases hk : k < d.size m
  · by_cases hp : d.pfault = true ∧ m = .dmem
    · right; left
      refine ⟨hk, hp.1, hp.2, ?_⟩
      rw [if_pos hk, if_pos hp]
    · cases hg : Mem.get (d.mem m) k with
      | none => right; right; left; simp only [hk, if_true, if_neg hp, true_and]; exact ⟨hp, trivial⟩
      | some v =>
        right; right; right
        simp only [hk, if_true, if_neg hp, true_and]
        exact ⟨hp, v, rfl, rfl⟩
  · left
    simp [hk]
    omega

/-- A read of a written element, with no protocol fault against it, gives what was written. -/
theorem memRead_written {nm : Num R} {m : MemId} {k : Nat} {d : Datapath R} {v : Cplx R} (hk : k < d.size m)
    (hp : d.pfault = false ∨ m ≠ .dmem) (hv : Mem.get (d.mem m) k = some v) : memRead nm m k d = .ok v := by
  have hn : ¬ (d.pfault = true ∧ m = .dmem) := by
    rintro ⟨h1, h2⟩
    rcases hp with h | h
    · rw [h1] at h; exact Bool.noConfusion h
    · exact h h2
  simp [memRead, hk, hn, hv]

/-- A read depends on the capacities, PFAULT, the counter and the memory read, and on nothing else. -/
theorem memRead_congr (nm : Num R) (m : MemId) (k : Nat) {d d' : Datapath R} (h1 : d.par = d'.par)
    (h2 : d.pfault = d'.pfault) (h3 : d.draws = d'.draws) (h4 : d.mem m = d'.mem m) :
    memRead nm m k d = memRead nm m k d' := by
  have hs : d.size m = d'.size m := by cases m <;> simp [Datapath.size, h1]
  simp [memRead, hs, h2, h3, h4]

/-- What a write answers: `next` exactly at an index of the memory. -/
theorem memWrite_ok_iff {m : MemId} {k : Nat} {v : Cplx R} {d d' : Datapath R} :
    memWrite m k v d = .ok d' ↔ k < d.size m ∧ d' = d.setMem m (Mem.set (d.mem m) k v) := by
  unfold memWrite
  split
  · rename_i h
    simp only [Except.ok.injEq, h, true_and]
    exact eq_comm
  · rename_i h
    simp [h]

theorem memWrite_eq {m : MemId} {k : Nat} {d : Datapath R} (v : Cplx R) (hk : k < d.size m) :
    memWrite m k v d = .ok (d.setMem m (Mem.set (d.mem m) k v)) := by
  simp [memWrite, hk]

/-- A write changes the one element and nothing else. -/
theorem memWrite_get {m : MemId} {k : Nat} {v : Cplx R} {d d' : Datapath R} (h : memWrite m k v d = .ok d')
    (m' : MemId) (k' : Nat) :
    Mem.get (d'.mem m') k' = if m' = m ∧ k' = k then some v else Mem.get (d.mem m') k' := by
  obtain ⟨-, rfl⟩ := memWrite_ok_iff.1 h
  by_cases hm : m' = m
  · subst hm; simp [Mem.get_set]
  · simp [hm, Datapath.mem_setMem_other d _ hm]

/-- A write keeps every memory in canonical form. -/
theorem memWrite_wf {m : MemId} {k : Nat} {v : Cplx R} {d d' : Datapath R} (h : memWrite m k v d = .ok d')
    (hw : ∀ m', Mem.wf (d.size m') (d.mem m') = true) (m' : MemId) : Mem.wf (d'.size m') (d'.mem m') = true := by
  obtain ⟨hk, rfl⟩ := memWrite_ok_iff.1 h
  by_cases hm : m' = m
  · subst hm; simpa using Mem.wf_set v hk (hw m')
  · simpa [Datapath.mem_setMem_other d _ hm] using hw m'

/-- The memories at reset are in canonical form. -/
theorem reset_memories_wf (m : MemId) : Mem.wf (Datapath.reset.size m) (Datapath.reset.mem m) = true := by
  cases m <;> rfl

end Sys2Proof.Machine
end

