-- ==== Sys2Proof/Laws/Ops.lean ====
section
/-! SUPPORT. One lemma for each shared operation that says all it can do: the lifting of a datapath operation, the loop `repeatE`,
the issue of a command, and the micro-operations. -/

namespace Sys2Proof.Machine

variable {R : Type}

/-! ## Lifting and loops -/

/-- If a lifted operation answers a next state, the operation gave its datapath and nothing else changed. -/
theorem onDatapath_next_iff {f : Datapath R → Except Fault (Datapath R)} {s t : State.Of R} :
    onDatapath f s = .next t ↔ ∃ d, f s.dp = .ok d ∧ t = { s with dp := d } := by
  unfold onDatapath
  cases h : f s.dp with
  | ok d => simp [eq_comm]
  | error e => simp

theorem onDatapath_of_ok {f : Datapath R → Except Fault (Datapath R)} {s : State.Of R} {d : Datapath R}
    (h : f s.dp = .ok d) : onDatapath f s = .next { s with dp := d } :=
  onDatapath_next_iff.2 ⟨d, h, rfl⟩

theorem onDatapath_of_error {f : Datapath R → Except Fault (Datapath R)} {s : State.Of R} {e : Fault}
    (h : f s.dp = .error e) : onDatapath f s = .fault e := by
  simp [onDatapath, h]

@[simp] theorem except_bind_ok {α β : Type} (a : α) (f : α → Except Fault β) : (Except.ok a >>= f) = f a := rfl

@[simp] theorem except_bind_error {α β : Type} (e : Fault) (f : α → Except Fault β) :
    ((Except.error e : Except Fault α) >>= f) = .error e := rfl

/-- Peels a computation apart: if it answers, its first part answered. -/
theorem except_bind_eq_ok {α β : Type} {x : Except Fault α} {f : α → Except Fault β} {b : β} :
    (x >>= f) = .ok b ↔ ∃ a, x = .ok a ∧ f a = .ok b := by
  cases x with
  | ok a => simp
  | error e => simp

@[simp] theorem repeatE_zero {α : Type} (f : α → Except Fault α) (a : α) : repeatE f 0 a = .ok a := rfl

theorem repeatE_succ {α : Type} (f : α → Except Fault α) (k : Nat) (a : α) :
    repeatE f (k + 1) a = (f a >>= repeatE f k) := rfl

theorem repeatE_add {α : Type} (f : α → Except Fault α) (j k : Nat) (a : α) :
    repeatE f (j + k) a = (repeatE f j a >>= repeatE f k) := by
  induction j generalizing a with
  | zero => simp
  | succ j ih =>
    rw [Nat.succ_add, repeatE_succ, repeatE_succ]
    cases h : f a with
    | ok b => simpa using ih b
    | error e => simp

/-- A loop whose every turn answers and keeps a property of (turns done, state) answers and has it at the end. -/
theorem repeatE_invariant {α : Type} {f : α → Except Fault α} {n : Nat} (P : Nat → α → Prop)
    (hstep : ∀ i a, i < n → P i a → ∃ b, f a = .ok b ∧ P (i + 1) b) :
    ∀ i a, i ≤ n → P i a → ∃ b, repeatE f (n - i) a = .ok b ∧ P n b := by
  intro i a hi
  induction hk : n - i generalizing i a with
  | zero =>
    intro hp
    have : i = n := by omega
    exact ⟨a, rfl, this ▸ hp⟩
  | succ k ih =>
    intro hp
    obtain ⟨b, hb, hpb⟩ := hstep i a (by omega) hp
    obtain ⟨c, hc, hpc⟩ := ih (i + 1) b (by omega) (by omega) hpb
    exact ⟨c, by rw [repeatE_succ, hb]; exact hc, hpc⟩

/-- If a loop answers and every turn that answers keeps a property, the end has it. -/
theorem repeatE_keeps {α : Type} {f : α → Except Fault α} (P : α → Prop)
    (hstep : ∀ a b, P a → f a = .ok b → P b) {n : Nat} {a b : α} (ha : P a) (h : repeatE f n a = .ok b) : P b := by
  induction n generalizing a with
  | zero => simp at h; exact h ▸ ha
  | succ n ih =>
    rw [repeatE_succ, except_bind_eq_ok] at h
    obtain ⟨c, hc, h⟩ := h
    exact ih (hstep a c ha hc) h

/-! ## Issuing a command -/

/-- All the issue of a command can do (60_exceptions.md R197 steps 1 to 3). -/
theorem issueCommand_cases (w : Word) (rest : State.Of R → State.Of R) (s : State.Of R) :
    (s.dp.pfault = true ∧ issueCommand w rest s = .fault .commandAfterProtocolFault) ∨
    (s.dp.pfault = false ∧ s.busy = true ∧ issueCommand w rest s = .next (protocolFault s)) ∨
    (s.dp.pfault = false ∧ s.busy = false ∧ issueCommand w rest s = .next (rest (beginCommand w s))) := by
  unfold issueCommand
  cases s.dp.pfault <;> cases s.busy <;> simp

theorem issueCommand_ready {w : Word} {rest : State.Of R → State.Of R} {s : State.Of R} (hb : s.busy = false)
    (hp : s.dp.pfault = false) : issueCommand w rest s = .next (rest (beginCommand w s)) := by
  simp [issueCommand, hb, hp]

/-- All that steps 5 to 8 of R197 can do. -/
theorem checkCommand_cases (s : State.Of R) :
    (lenField s.cmdl ≤ 1 ∧ checkCommand s = completeCommand s) ∨
    (2 ≤ lenField s.cmdl ∧ opField s.cmdl ≠ 2 ∧ isPow2 (lenField s.cmdl) = false ∧
      checkCommand s = errorCompletion .len s) ∨
    (2 ≤ lenField s.cmdl ∧ (opField s.cmdl = 2 ∨ isPow2 (lenField s.cmdl) = true) ∧
      (s.dp.par.nmax < lenField s.cmdl ∨ (opField s.cmdl = 2 ∧ s.dp.par.lmax < paddedLength (lenField s.cmdl))) ∧
      checkCommand s = errorCompletion .cap s) ∨
    (2 ≤ lenField s.cmdl ∧ (opField s.cmdl = 2 ∨ isPow2 (lenField s.cmdl) = true) ∧
      lenField s.cmdl ≤ s.dp.par.nmax ∧ (opField s.cmdl = 2 → paddedLength (lenField s.cmdl) ≤ s.dp.par.lmax) ∧
      checkCommand s = acceptCommand s) := by
  unfold checkCommand
  by_cases h1 : lenField s.cmdl ≤ 1
  · left; exact ⟨h1, by simp [h1]⟩
  · right
    by_cases h2 : opField s.cmdl ≠ 2 ∧ isPow2 (lenField s.cmdl) = false
    · left
      refine ⟨by omega, h2.1, h2.2, ?_⟩
      simp [h1, h2.1, h2.2]
    · right
      have h2' : opField s.cmdl = 2 ∨ isPow2 (lenField s.cmdl) = true := by
        rcases Decidable.em (opField s.cmdl = 2) with h | h
        · exact .inl h
        · right
          cases hp : isPow2 (lenField s.cmdl) with
          | true => rfl
          | false => exact absurd ⟨h, hp⟩ h2
      by_cases h3 : s.dp.par.nmax < lenField s.cmdl ∨
          (opField s.cmdl = 2 ∧ s.dp.par.lmax < paddedLength (lenField s.cmdl))
      · left
        refine ⟨by omega, h2', h3, ?_⟩
        simp only [if_neg h1, if_neg h2, if_pos h3]
      · right
        refine ⟨by omega, h2', by omega, fun h => ?_, ?_⟩
        · exact Nat.le_of_not_lt fun hl => h3 (.inr ⟨h, hl⟩)
        · simp only [if_neg h1, if_neg h2, if_neg h3]

/-! ## The micro-operations -/

/-- Where SWAP answers, and what it leaves (41_permute.md R128). -/
theorem swap_of_reads {nm : Num R} {m : MemSel} {a b : Nat} {d : Datapath R} {x y : Cplx R}
    (hx : memRead nm (memOf m) a d = .ok x) (hy : memRead nm (memOf m) b d = .ok y)
    (ha : a < d.size (memOf m)) (hb : b < d.size (memOf m)) :
    swap nm m a b d =
      .ok ((d.withRegs (fun r => { r with t := x, z := y })).setMem (memOf m)
        (Mem.set (Mem.set (d.mem (memOf m)) a y) b x)) := by
  have h1 : a < (d.withRegs (fun r => { r with t := x, z := y })).size (memOf m) := by simpa using ha
  simp only [swap, hx, hy, except_bind_ok, memWrite_eq y h1]
  rw [memWrite_eq x (by simpa using hb)]
  cases m <;> rfl

/-- Where BFLY answers, and what it leaves (42_pow2_transform.md R147). -/
theorem bfly_of_reads {nm : Num R} {m : MemSel} {lo hi : Nat} {d : Datapath R} {h t : Cplx R}
    (hh : memRead nm (memOf m) hi d = .ok h) (ht : memRead nm (memOf m) lo d = .ok t)
    (hlo : lo < d.size (memOf m)) (hhi : hi < d.size (memOf m)) :
    bfly nm m lo hi d =
      .ok ((d.withRegs (fun r => { r with p := cmul nm d.r.w h, t := t })).setMem (memOf m)
        (Mem.set (Mem.set (d.mem (memOf m)) hi (csub nm t (cmul nm d.r.w h))) lo
          (cadd nm t (cmul nm d.r.w h)))) := by
  have h1 : hi < (d.withRegs (fun r => { r with p := cmul nm d.r.w h, t := t })).size (memOf m) := by simpa using hhi
  simp only [bfly, hh, ht, except_bind_ok, memWrite_eq _ h1]
  rw [memWrite_eq _ (by simpa using hlo)]
  cases m <;> rfl

theorem writeZ_eq {m : MemId} {d : Datapath R} (v : Cplx R) (hk : d.r.k < d.size m) :
    writeZ m v d =
      .ok ((d.withRegs (fun r => { r with z := v })).setMem m (Mem.set (d.mem m) d.r.k v)) := by
  unfold writeZ
  rw [memWrite_eq v (by simpa using hk)]
  simp

theorem chirpgen_eq (nm : Num R) {d : Datapath R} (hk : d.r.k < d.size .chtab) :
    chirpgen nm d =
      .ok (d.setMem .chtab (Mem.set (d.mem .chtab) d.r.k (cexp nm d.r.s (d.r.k * d.r.k) d.r.n))) := by
  simp [chirpgen, memWrite_eq _ hk]

theorem pmul_of_reads {nm : Num R} {d : Datapath R} {a b : Cplx R} (ha : memRead nm .amem d.r.k d = .ok a)
    (hb : memRead nm .bmem d.r.k d = .ok b) : pmul nm d = writeZ .amem (cmul nm a b) d := by
  simp [pmul, ha, hb]

theorem cmod_of_reads {nm : Num R} {d : Datapath R} {c x : Cplx R} (hk : d.r.k < d.r.n)
    (hc : memRead nm .chtab d.r.k d = .ok c) (hx : memRead nm .dmem d.r.k d = .ok x) :
    cmod nm d = writeZ .amem (cmul nm c x) d := by
  simp [cmod, hk, hc, hx]

theorem cmod_padding {nm : Num R} {d : Datapath R} (hk : d.r.n ≤ d.r.k) : cmod nm d = writeZ .amem (czero nm) d := by
  simp [cmod, Nat.not_lt.2 hk]

theorem wback_of_reads {nm : Num R} {d : Datapath R} {a c : Cplx R} (ha : memRead nm .amem d.r.k d = .ok a)
    (hc : memRead nm .chtab d.r.k d = .ok c) (hk : d.r.k < d.size .dmem) :
    wback nm d =
      .ok ((d.withRegs (fun r => { r with z := cmul nm a c })).setMem .dmem
        (Mem.set (d.mem .dmem) d.r.k (cdivn nm (cmul nm a c) d.r.l))) := by
  simp only [wback, ha, hc, except_bind_ok]
  rw [memWrite_eq _ (by simpa using hk)]
  simp

end Sys2Proof.Machine
end

