-- ==== Sys2Proof/Laws/Machine.lean ====
section
/-! SUPPORT. The machine that `exec`, `step` and `core` are is the machine at the configuration `setupB64`, so that what is proved of
every configuration holds of it; and all a step of the machine can be. -/

namespace Sys2Proof.Machine

variable {R : Type}

theorem exec_eq_perform (i : Instr) (s : State) : exec i s = perform numB64 i s := by cases i <;> rfl

theorem exec_fun_eq : exec = perform numB64 := funext fun i => funext fun s => exec_eq_perform i s

theorem coreStep_eq : coreStep = coreStepBy (perform numB64) := by rw [← exec_fun_eq]; rfl

theorem commandWrite_eq : commandWrite = commandWriteBy (perform numB64) := by rw [← exec_fun_eq]; rfl

theorem step_eq : step = stepBy (perform numB64) setupB64 := by rw [← exec_fun_eq]; rfl

theorem reset_eq : State.reset = State.Of.resetWith (czero numB64) := rfl

theorem core_eq_machineOf : Sys2Proof.core = machineOf setupB64 := by
  simp only [Sys2Proof.core, machineOf, step_eq, reset_eq]
  rfl

/-! ## What a step is -/

theorem coreStepBy_idle {ex : Instr → State.Of R → Out R} {s : State.Of R} (h : s.busy = false) :
    coreStepBy ex s = .next s := by simp [coreStepBy, h]

theorem coreStepBy_none {ex : Instr → State.Of R → Out R} {s : State.Of R} (h : s.busy = true) (hm : microOp s = none) :
    coreStepBy ex s = .next (advance s) := by simp [coreStepBy, h, hm]

theorem coreStepBy_some {ex : Instr → State.Of R → Out R} {s t : State.Of R} {i : Instr} (h : s.busy = true)
    (hm : microOp s = some i) (he : ex i s = .next t) : coreStepBy ex s = .next (advance t) := by
  simp [coreStepBy, h, hm, he]

theorem stepBy_nil {ex : Instr → State.Of R → Out R} {cf : Setup R} {s : State.Of R} (h : s.script = []) :
    stepBy ex cf s = coreStepBy ex s := by simp [stepBy, h]

theorem stepBy_wait_busy {ex : Instr → State.Of R → Out R} {cf : Setup R} {s : State.Of R} {rest : List (HostMove R)}
    (h : s.script = .wait :: rest) (hb : s.busy = true) : stepBy ex cf s = coreStepBy ex s := by
  simp [stepBy, h, waits, hb]

/-- A move that is no WAIT, or a WAIT of an idle core, is made at once. -/
theorem stepBy_move {ex : Instr → State.Of R → Out R} {cf : Setup R} {s : State.Of R} {m : HostMove R}
    {rest : List (HostMove R)} (h : s.script = m :: rest) (hm : (waits m && s.busy) = false) :
    stepBy ex cf s = hostMoveBy ex cf m { s with script := rest } := by
  simp [stepBy, h, hm]

/-- The layout of a well-formed parameter record has room for both components. -/
theorem layoutWf_size {c : Nat} {l : ElemLayout} (h : layoutWf c l) : 2 * c ≤ l.size := by
  obtain ⟨hr, hi, hn, hlt⟩ := h
  have hs : l.re ++ l.im ⊆ List.range l.size := fun o ho => List.mem_range.2 (hlt o ho)
  have := (hn.subperm hs).length_le
  simp only [List.length_append, List.length_range, hr, hi] at this
  omega

end Sys2Proof.Machine
end

