-- ==== Sys2Proof/Laws/Numerics.lean ====
section
/-! SUPPORT. What is known of the implementation's cosine and sine (40_complex_arith.md R109 (c), 42_pow2_transform.md R154 (a)). -/

namespace Sys2Proof.Machine

/-- The exponent field is bits 62:52. -/
theorem f64Exp_eq_extract (x : F64) : f64Exp x = (x.extractLsb' 52 11).toNat := by
  simp [f64Exp, BitVec.extractLsb'_toNat, Nat.shiftRight_eq_div_pow]

/-- `f64ToFinite` gives a finite number. -/
theorem f64ToFinite_isFinite (x : F64) : f64IsFinite (f64ToFinite x) = true := by
  unfold f64ToFinite
  split
  · assumption
  · rename_i h
    have hx : x.extractLsb' 52 11 = 2047#11 := by
      apply BitVec.eq_of_toNat_eq
      simpa [f64IsFinite, f64Exp_eq_extract] using h
    simp [f64IsFinite, f64Exp_eq_extract, BitVec.extractLsb'_xor, hx]

/-- `f64ToFinite` leaves a finite number as it is. -/
theorem f64ToFinite_of_isFinite {x : F64} (h : f64IsFinite x = true) : f64ToFinite x = x := if_pos h

/-- The arguments of an entry of the twiddle table (10_state.md R33). -/
theorem twiddleArgs_iff (p q : Nat) : twiddleArgs p q = true ↔ isPow2 q = true ∧ p < q := by
  simp [twiddleArgs]

/-- At every argument that is no entry of the twiddle table the value is the implementation's, whatever it is (R102). -/
theorem f64OfTable_free {p q : Nat} (h : twiddleArgs p q = false) (v : F64) : f64OfTable p q v = v := by
  simp [f64OfTable, h]

/-- An entry of the twiddle table has a finite cosine. -/
theorem f64CosPi_isFinite {p q : Nat} (h : twiddleArgs p q = true) : f64IsFinite (f64CosPi p q) = true := by
  unfold f64CosPi
  split
  · decide
  · simp [f64OfTable, h, f64ToFinite_isFinite]

/-- An entry of the twiddle table has a finite sine. -/
theorem f64SinPi_isFinite {p q : Nat} (h : twiddleArgs p q = true) : f64IsFinite (f64SinPi p q) = true := by
  unfold f64SinPi
  split
  · cases Config.sinZeroSign q <;> decide
  · simp [f64OfTable, h, f64ToFinite_isFinite]

end Sys2Proof.Machine
end

