-- ==== Sys2Proof/Laws/PerInstr.lean ====
section
/-! SUPPORT. A property of every instruction as syntax: its word lies in the opcode-map row of the instruction (30_encoding.md R78,
R80), and an instruction without a row has no word (R85). -/

namespace Sys2Proof.Laws

open Sys2Proof

/-- A mask within the low `k` bits sees only those bits. -/
theorem selects_of_low (r : OpcodeRow) (x k : Nat) (hk : k ≤ 32) (hm : r.mask.toNat < 2 ^ k)
    (h : x % 2 ^ k &&& r.mask.toNat = r.pattern.toNat) : r.selects (BitVec.ofNat 32 x) = true := by
  have hx : x % 2 ^ 32 % 2 ^ k = x % 2 ^ k := Nat.mod_mod_of_dvd x (Nat.pow_dvd_pow 2 hk)
  have hlt : x % 2 ^ 32 &&& r.mask.toNat < 2 ^ k := lt_of_le_of_lt Nat.and_le_right hm
  have : x % 2 ^ 32 &&& r.mask.toNat = r.pattern.toNat := by
    rw [← Nat.mod_eq_of_lt hlt, Nat.and_mod_two_pow, hx, Nat.mod_eq_of_lt hm, h]
  simpa [OpcodeRow.selects, ← BitVec.toNat_inj] using this

namespace RowMatch

/-- The instruction's word, where it has one, selects the instruction's row; without a row there is no word. -/
def Statement (i : Instr) : Prop :=
  match i.row with
  | some r => i.wf = true → ∃ w, encode i = some w ∧ r.selects w = true
  | none => encode i = none

theorem permute (n : Nat) : Statement (.permute n) := fun _ =>
  ⟨_, rfl, selects_of_low _ _ 8 (by decide) (by decide) (by
    rw [show (n * 2 ^ 8 + 0 * 2 ^ 3 + false.toNat * 2 ^ 2 + 0) % 2 ^ 8 = 0 by simp]; decide)⟩

theorem xformPow2 (n : Nat) (inv : Bool) : Statement (.xformPow2 n inv) := fun _ =>
  ⟨_, rfl, selects_of_low _ _ 8 (by decide) (by decide) (by
    rw [show (n * 2 ^ 8 + 0 * 2 ^ 3 + inv.toNat * 2 ^ 2 + 1) % 2 ^ 8 = inv.toNat * 2 ^ 2 + 1 by have := inv.toNat_lt; omega]
    cases inv <;> decide)⟩

theorem gen_selects (n : Nat) (inv : Bool) : rowXformGen.selects (assemble n 0 inv 2) = true :=
  selects_of_low _ _ 8 (by decide) (by decide) (by
    rw [show (n * 2 ^ 8 + 0 * 2 ^ 3 + inv.toNat * 2 ^ 2 + 2) % 2 ^ 8 = inv.toNat * 2 ^ 2 + 2 by have := inv.toNat_lt; omega]
    cases inv <;> decide)

theorem xformGen (n : Nat) (inv : Bool) : Statement (.xformGen n inv) := fun _ => ⟨_, rfl, gen_selects n inv⟩

theorem reservedOp3 (len rsv : Nat) (inv : Bool) : Statement (.reservedOp3 len rsv inv) := fun _ =>
  ⟨_, rfl, selects_of_low _ _ 2 (by decide) (by decide) (by
    rw [show (len * 2 ^ 8 + rsv * 2 ^ 3 + inv.toNat * 2 ^ 2 + 3) % 2 ^ 2 = 3 by omega]; decide)⟩

theorem illegalPermuteInv (len : Nat) : Statement (.illegalPermuteInv len) := fun _ =>
  ⟨_, rfl, selects_of_low _ _ 8 (by decide) (by decide) (by
    rw [show (len * 2 ^ 8 + 0 * 2 ^ 3 + true.toNat * 2 ^ 2 + 0) % 2 ^ 8 = 4 by simp]; decide)⟩

theorem swap (m : MemSel) (a b : Nat) : Statement (.swap m a b) := rfl
theorem bitrev (m : MemSel) (n : Nat) : Statement (.bitrev m n) := rfl
theorem twld : Statement .twld := rfl
theorem bfly (m : MemSel) (lo hi : Nat) : Statement (.bfly m lo hi) := rfl
theorem stages (m : MemSel) (n : Nat) (sg : Sign) : Statement (.stages m n sg) := rfl
theorem fft2 (m : MemSel) (n : Nat) (sg : Sign) : Statement (.fft2 m n sg) := rfl
theorem lcalc : Statement .lcalc := rfl
theorem chirpgen : Statement .chirpgen := rfl
theorem cmod : Statement .cmod := rfl
theorem bkern : Statement .bkern := rfl
theorem pmul : Statement .pmul := rfl
theorem wback : Statement .wback := rfl
theorem czero (d : COperand) : Statement (.czero d) := rfl
theorem cadd (d a b : COperand) : Statement (.cadd d a b) := rfl
theorem csub (d a b : COperand) : Statement (.csub d a b) := rfl
theorem cmul (d a b : COperand) : Statement (.cmul d a b) := rfl
theorem conj (d a : COperand) : Statement (.conj d a) := rfl
theorem cexp (d : COperand) (sg : Sign) (p q : Nat) : Statement (.cexp d sg p q) := rfl
theorem cdivn (d a : COperand) (l : Nat) : Statement (.cdivn d a l) := rfl

theorem fft (n : Nat) : Statement (.fft n) := fun _ => ⟨_, rfl, gen_selects n false⟩
theorem ifft (n : Nat) : Statement (.ifft n) := fun _ => ⟨_, rfl, gen_selects n true⟩

end RowMatch

end Sys2Proof.Laws
end

