-- ==== Sys2Proof/Tests/Slice0.lean ====
section
/-! SUPPORT. Tests of the model against the spec's own vectors (95_test_vectors.md), and for every obligation with hypotheses a
state and operands that meet them. -/

namespace Sys2Proof.Tests

open Sys2Proof Sys2Proof.Machine

-- One theorem after another: side by side, hundreds of small ones hold too many threads.
set_option Elab.async false

/-! ## Helpers -/

/-- Section 8 of 95_test_vectors.md: NMAX = 8, LMAX = 16. -/
def par : Params := { nmax := 8, lmax := 16, regBase := 0, dmemBase := 16, layout := Config.defaultLayout }

/-- An idle core with these contents of DMEM. -/
def idle (m : Mem F64) : State := { State.reset with dp := { Datapath.reset with par := par, dmem := m } }

/-- An idle core with these contents of AMEM, BMEM, CHTAB and these working registers. -/
def work (a b c : Mem F64) (r : Regs F64) : State :=
  { State.reset with dp := { Datapath.reset with par := par, amem := a, bmem := b, chtab := c, r := r } }

/-- Binary64 images of small numbers. -/
def f1 : F64 := 0x3FF0000000000000#64
def f2 : F64 := 0x4000000000000000#64
def f3 : F64 := 0x4008000000000000#64
def f4 : F64 := 0x4010000000000000#64
def f5 : F64 := 0x4014000000000000#64
def f7 : F64 := 0x401C000000000000#64
def f8 : F64 := 0x4020000000000000#64
def f10 : F64 := 0x4024000000000000#64
def m1 : F64 := 0xBFF0000000000000#64
def m2 : F64 := 0xC000000000000000#64
def m7 : F64 := 0xC01C000000000000#64
def m16 : F64 := 0xC030000000000000#64
def f0 : F64 := 0#64
def mz : F64 := 0x8000000000000000#64

/-- A real element. -/
def re (x : F64) : Cplx F64 := ⟨x, f0⟩

/-- DMEM = [1, 2, 3, 4] and DMEM = [x0 .. x7] with distinct real values. -/
def mem4 : Mem F64 := [(0, re f1), (1, re f2), (2, re f3), (3, re f4)]
def mem8 : Mem F64 := mem4 ++ [(4, re f5), (5, re f7), (6, re f8), (7, re f10)]

/-- Equal numbers; the two zeros count as equal (the spec's vectors under `NUM_exact` do not tell them apart). -/
def sameNum (x y : F64) : Bool := x == y || (f64IsZero x && f64IsZero y)
def sameElem (v w : Cplx F64) : Bool := sameNum v.re w.re && sameNum v.im w.im

/-- The elements at 0, 1, 2, … of a memory are these numbers. -/
def memIs (m : Mem F64) (from_ : Nat) : List (Cplx F64) → Bool
  | [] => true
  | v :: rest => (match Mem.get m from_ with | some w => sameElem v w | none => false) && memIs m (from_ + 1) rest

/-- A test of the state an outcome holds; of the datapath. -/
def after (o : Out) (p : State → Bool) : Bool := match o with | .next t => p t | _ => false
def afterD {R : Type} (o : Except Fault (Datapath R)) (p : Datapath R → Bool) : Bool :=
  match o with | .ok d => p d | .error _ => false
def answers (o : Out) (t : State) : Bool := after o (fun u => u == t)
def status (o : Out) (w : Word) : Bool := after o (fun t => statusWord t == w)
def faults (o : Out) (f : Fault) : Bool := match o with | .fault g => g == f | _ => false
def refuses (o : Out) (f : Refusal) : Bool := match o with | .refused g => g == f | _ => false

/-- cos and sin of a multiple of π/2, exact (40_complex_arith.md R101 at the points where its values are 0, 1, −1). -/
def quarterCos (p q : Nat) : F64 :=
  if 2 * p / q % 4 = 0 then f1 else if 2 * p / q % 4 = 2 then m1 else f0
def quarterSin (p q : Nat) : F64 :=
  if 2 * p / q % 4 = 1 then f1 else if 2 * p / q % 4 = 3 then m1 else f0

/-- `NUM_b64` with those values in place of the free ones: for routines that use no other twiddle. -/
def numQuarter : Num F64 := { numB64 with rcospi := quarterCos, rsinpi := quarterSin }

/-! ## WellFormed refuses an ill-formed term, check by check -/

theorem test_wf_permute_len : Instr.wf (.permute 16777216) = false := by decide
theorem test_wf_xformPow2_len : Instr.wf (.xformPow2 16777216 true) = false := by decide
theorem test_wf_xformGen_len : Instr.wf (.xformGen 16777216 false) = false := by decide
theorem test_wf_reservedOp3_len : Instr.wf (.reservedOp3 16777216 0 false) = false := by decide
theorem test_wf_reservedOp3_rsv : Instr.wf (.reservedOp3 0 32 false) = false := by decide
theorem test_wf_illegalPermuteInv_len : Instr.wf (.illegalPermuteInv 16777216) = false := by decide
theorem test_wf_fft_len : Instr.wf (.fft 16777216) = false := by decide
theorem test_wf_ifft_len : Instr.wf (.ifft 16777216) = false := by decide
theorem test_wf_swap_order : Instr.wf (.swap .dmem 3 3) = false := by decide
theorem test_wf_bfly_order : Instr.wf (.bfly .amem 3 2) = false := by decide
theorem test_wf_bitrev_pow2 : Instr.wf (.bitrev .dmem 6) = false ∧ Instr.wf (.bitrev .dmem 0) = false := by decide
theorem test_wf_stages_pow2 : Instr.wf (.stages .dmem 12 .neg) = false := by decide
theorem test_wf_fft2_pow2 : Instr.wf (.fft2 .bmem 3 .pos) = false := by decide
theorem test_wf_cexp_q : Instr.wf (.cexp (.reg .w) .neg 1 0) = false := by decide
theorem test_wf_cdivn_pow2 : Instr.wf (.cdivn (.reg .z) (.reg .z) 12) = false := by decide
theorem test_wf_accepts :
    Instr.wf (.permute 16777215) = true ∧ Instr.wf (.reservedOp3 16777215 31 true) = true ∧
      Instr.wf (.swap .dmem 1 4) = true ∧ Instr.wf (.bitrev .dmem 1) = true ∧
      Instr.wf (.cdivn (.reg .z) (.reg .z) 8) = true := by decide

/-! ## Decoding: words of 95_test_vectors.md section 2, bit by bit (LEN 24, RSV 5, INV 1, OP 2) -/

theorem test_decode_permute_V1 : decode 0b00000000_00000000_00001000_00000_0_00#32 = .ok (.permute 8) := by decide
theorem test_decode_xformPow2_V3 : decode 0b00000000_00000000_00000100_00000_0_01#32 = .ok (.xformPow2 4 false) := by decide
theorem test_decode_xformPow2_V4 : decode 0b00000000_00000000_00000100_00000_1_01#32 = .ok (.xformPow2 4 true) := by decide
theorem test_decode_xformPow2_V10 :
    decode 0b11111111_11111111_11111111_00000_1_01#32 = .ok (.xformPow2 16777215 true) := by decide
theorem test_decode_xformPow2_V11 :
    decode 0b00000001_00000000_00000000_00000_0_01#32 = .ok (.xformPow2 65536 false) := by decide
theorem test_decode_xformGen_V6 : decode 0b00000000_00000000_00000011_00000_0_10#32 = .ok (.xformGen 3 false) := by decide
theorem test_decode_xformGen_V9 : decode 0b00000000_00000000_00000100_00000_1_10#32 = .ok (.xformGen 4 true) := by decide
theorem test_decode_reservedOp3_V14 : decode 0b00000000_00000000_00000100_00000_1_11#32 = .ok (.reservedOp3 4 0 true) := by decide
theorem test_decode_reservedOp3_V18 :
    decode 0b11111111_11111111_11111111_11111_1_11#32 = .ok (.reservedOp3 16777215 31 true) := by decide
theorem test_decode_illegalPermuteInv_V15 :
    decode 0b00000000_00000000_00001000_00000_1_00#32 = .ok (.illegalPermuteInv 8) := by decide
theorem test_decode_reservedBits_V16 : decode 0b00000000_00000000_00000100_00001_0_01#32 = .error .reservedBits := by decide
theorem test_decode_reservedBits_V17 : decode 0b00000000_00000000_00000100_10000_0_10#32 = .error .reservedBits := by decide
/-- R83: `FFT 3` is the word of V6, `IFFT 3` that of V7. -/
theorem test_encode_fft_V6 : encode (.fft 3) = some 0b00000000_00000000_00000011_00000_0_10#32 := by decide
theorem test_encode_ifft_V7 : encode (.ifft 3) = some 0b00000000_00000000_00000011_00000_1_10#32 := by decide
/-- The opcode map's note on V15 and V16 (section 2): no row. -/
theorem test_rows_V15_V16 :
    rowPermute.selects 0x804#32 = false ∧ rowXformPow2.selects 0x409#32 = false ∧ rowXformPow2.selects 0x405#32 = true := by
  decide
theorem test_decodeTableWord : decodeTableWord 32 0x302 = some (.xformGen 3 false) ∧ decodeTableWord 0 0 = none := by decide

/-! ## Commands: the E vectors of section 8 -/

theorem test_permute_E5 : status (commandWrite 0x00000600#32 (idle [])) 0x24#32 = true := by decide
theorem test_permute_E13 : after (commandWrite 0x00000100#32 (idle [])) (fun t => statusWord t == 2#32 && t.dp == (idle []).dp) = true := by
  decide
theorem test_xformPow2_E6 : status (commandWrite 0x00001001#32 (idle mem8)) 0x34#32 = true := by decide
theorem test_xformPow2_E7 : status (commandWrite 0x00000C01#32 (idle mem8)) 0x24#32 = true := by decide
theorem test_xformGen_E8 : status (commandWrite 0x00000802#32 (idle mem8)) 0x34#32 = true := by decide
theorem test_xformGen_E9 :
    after (commandWrite 0x00000702#32 (idle mem8)) (fun t => statusWord t == 1#32 && t.seq == .gLcalc && t.dp.r.n == 7) = true := by
  decide
theorem test_reservedOp3_E11 : status (commandWrite 0x00000C03#32 (idle mem8)) 0x14#32 = true := by decide
theorem test_illegalPermuteInv_E14 : status (commandWrite 0x00000104#32 (idle [])) 0x14#32 = true := by decide
theorem test_reservedBits_E3 : status (commandWrite 0x00000409#32 (idle mem8)) 0x14#32 = true := by decide
/-- R83, V6 and V7: S = −1 and S = +1. -/
theorem test_fft_R83 :
    after (exec (.fft 3) (idle mem4)) (fun t => t.cmdl == 0x00000302#32 && t.seq == .gLcalc && t.dp.r.s == .neg) = true := by decide
theorem test_ifft_R83 :
    after (exec (.ifft 3) (idle mem4)) (fun t => t.cmdl == 0x00000306#32 && t.seq == .gLcalc && t.dp.r.s == .pos) = true := by decide
theorem test_withFetchWord_runs : status (step (State.withFetchWord (idle mem8) 32 0x702)) 1#32 = true := by decide

/-! ## The host: E18 to E23, Program 6 -/

/-- `XFORM_POW2 4, FWD` running on an unwritten DMEM. -/
def running : State := { idle [] with busy := true, cmdl := 0x401#32, seq := .tPerm, upos := .perm, dp := { (idle []).dp with r :=
  { Regs.reset with opc := 1#2, n := 4, nn := 4 } } }

theorem test_cmd_while_busy_E18 : status (step { running with script := [.regWrite 0 0x401#32] }) 9#32 = true := by decide
theorem test_hwrite_while_busy_E19 : status (step { running with script := [.hwrite 0 (re f1)] }) 9#32 = true := by decide
theorem test_status_read_while_busy_E20 :
    answers (step { running with script := [.regRead 1] }) { running with rdata := .word 1#32 } = true := by decide
theorem test_cmd_read_E21 :
    answers (step { idle mem4 with script := [.regRead 0] }) { idle mem4 with rdata := .word 0#32 } = true := by decide
theorem test_status_write_E21 : answers (step { idle mem4 with script := [.regWrite 1 0xFFFFFFFF#32] }) (idle mem4) = true := by
  decide
theorem test_reset_while_busy_E23 :
    after (step { running with script := [.reset] }) (fun t => statusWord t == 0#32 && t.seq == .idle && t.dp.dmem == []) = true := by
  decide
/-- E17 and Program 6: the first BFLY on an unwritten DMEM. -/
theorem test_unwritten_E17 :
    faults (coreStep { running with seq := .tStages, upos := .bfly, dp := { running.dp with r :=
      { running.dp.r with step := 1, stride := 2, hi := 1 } } }) .uninitialisedElement = true := by decide
theorem test_bus_element_R53 :
    after (step { idle [] with script := [.busWrite 32 [0, 0, 0, 0, 0, 0, 0xF0, 0x3F, 0, 0, 0, 0, 0, 0, 0, 0x40]] })
      (fun t => t.dp.dmem == [(1, ⟨f1, f2⟩)]) = true := by decide

/-- R53 leaves the layout open: imaginary part first, most significant byte first, in 24 bytes. -/
def otherLayout : ElemLayout :=
  { size := 24, re := [15, 14, 13, 12, 11, 10, 9, 8], im := [7, 6, 5, 4, 3, 2, 1, 0] }
theorem test_bus_other_layout :
    after (step { idle [] with
        dp := { (idle []).dp with par := { par with layout := otherLayout } },
        script := [.busWrite 40 [0x40, 0, 0, 0, 0, 0, 0, 0, 0x3F, 0xF0, 0, 0, 0, 0, 0, 0, 7, 7, 7, 7, 7, 7, 7, 7]] })
      (fun t => t.dp.dmem == [(1, ⟨f1, f2⟩)]) = true := by decide
/-- R54: half an element, a misaligned element, an element past NMAX. -/
theorem test_bus_refusals_R54 :
    refuses (step { idle mem4 with script := [.busRead 16 8] }) .partialAccess = true ∧
      refuses (step { idle mem4 with script := [.busRead 24 16] }) .partialAccess = true ∧
      refuses (step { idle mem4 with script := [.busRead 144 16] }) .partialAccess = true := by decide
/-- D20: a run with a protocol fault stays marked after the reset that clears PFAULT, and is not final. -/
theorem test_run_mark_D20 :
    after (step { running with script := [.hread 0] }) (fun t => t.dp.pfault && t.faulty) = true ∧
      after (step { running with faulty := true, dp := { running.dp with pfault := true }, script := [.reset] })
        (fun t => !t.dp.pfault && t.faulty && decide (¬ t.Final)) = true := by decide

/-! ## Micro-operations -/

/-- 41_permute.md R128's example. -/
theorem test_swap_R128 :
    after (exec (.swap .dmem 1 4) (idle mem8))
      (fun t => memIs t.dp.dmem 0 [re f1, re f5, re f3, re f4, re f2] && t.dp.r.t == re f2 && t.dp.r.z == re f5) = true := by
  decide +kernel
/-- P11: NaN, the sign of a zero and an infinity are moved bit for bit. -/
theorem test_swap_P11 :
    after (exec (.swap .dmem 0 1) (idle [(0, ⟨mz, 0x7FF8000000000001#64⟩), (1, ⟨0x7FF0000000000000#64, f0⟩)]))
      (fun t => t.dp.dmem == [(0, ⟨0x7FF0000000000000#64, f0⟩), (1, ⟨mz, 0x7FF8000000000001#64⟩)]) = true := by decide +kernel
/-- P5. -/
theorem test_bitrev_P5 :
    after (exec (.bitrev .dmem 8) (idle mem8))
      (fun t => memIs t.dp.dmem 0 [re f1, re f5, re f3, re f8, re f2, re f7, re f4, re f10]) = true := by decide +kernel
/-- P10: palindromic indices are not read. -/
theorem test_bitrev_P10 :
    after (exec (.bitrev .dmem 8) (idle [(1, re f1), (3, re f3), (4, re f4), (6, re f2)]))
      (fun t => t.dp.dmem == [(1, re f4), (3, re f2), (4, re f1), (6, re f3)]) = true := by decide +kernel
/-- Section 6: (NN, SS, STEP, G) = (8, −1, 2, 1): STRIDE = 2, W = −i. -/
theorem test_twld_vector :
    afterD (twld numQuarter ((idle []).dp.withRegs (fun r => { r with nn := 8, ss := .neg, g := 1, stride := tableStride 8 2 })))
      (fun d => sameElem d.r.w ⟨f0, m1⟩) = true := by decide +kernel
/-- (4, −1, 1, 0): W = 1, in the machine's own numerics. -/
theorem test_twld_one :
    after (exec .twld ({ idle [] with dp := (idle []).dp.withRegs (fun r => { r with nn := 4, stride := 2 }) }))
      (fun t => t.dp.r.w.re == f1) = true := by decide +kernel
/-- R147's example: (−2, −2, −i) → (−2 + 2i, −2 − 2i). -/
theorem test_bfly_R147 :
    after (exec (.bfly .dmem 1 3) { idle [(1, re m2), (3, re m2)] with
        dp := (idle [(1, re m2), (3, re m2)]).dp.withRegs (fun r => { r with w := ⟨f0, m1⟩ }) })
      (fun t => memIs t.dp.dmem 1 [⟨m2, f2⟩] && memIs t.dp.dmem 3 [⟨m2, m2⟩] && sameElem t.dp.r.p ⟨f0, f2⟩) = true := by
  decide +kernel
/-- Section 6: (0, 2, i) → (2i, −2i). -/
theorem test_bfly_i :
    after (exec (.bfly .dmem 0 1) { idle [(0, re f0), (1, re f2)] with
        dp := (idle [(0, re f0), (1, re f2)]).dp.withRegs (fun r => { r with w := ⟨f0, f1⟩ }) })
      (fun t => memIs t.dp.dmem 0 [⟨f0, f2⟩, ⟨f0, m2⟩]) = true := by decide +kernel
/-- F7 after BITREV: [1, 3, 2, 4] → [10, −2+2i, −2, −2−2i]. -/
theorem test_stages_F7 :
    afterD (stages numQuarter .dmem 4 .neg (idle [(0, re f1), (1, re f3), (2, re f2), (3, re f4)]).dp)
      (fun d => memIs d.dmem 0 [re f10, ⟨m2, f2⟩, re m2, ⟨m2, m2⟩]) = true := by decide +kernel
/-- F8's inverse direction on F4's input pattern shifted (F6 conjugated): [0, 1, 0, 0], +1 → [1, i, −1, −i]. -/
theorem test_fft2_inverse :
    afterD (fft2 numQuarter .amem 4 .pos (work [(0, re f0), (1, re f1), (2, re f0), (3, re f0)] [] [] Regs.reset).dp)
      (fun d => memIs d.amem 0 [re f1, ⟨f0, f1⟩, re m1, ⟨f0, m1⟩]) = true := by decide +kernel
/-- F6. -/
theorem test_fft2_F6 :
    afterD (fft2 numQuarter .dmem 4 .neg (idle [(0, re f0), (1, re f1), (2, re f0), (3, re f0)]).dp)
      (fun d => memIs d.dmem 0 [re f1, ⟨f0, m1⟩, re m1, ⟨f0, f1⟩]) = true := by decide +kernel
/-- B1, bit for bit: [1, 0, 0, 0] → [1, 1, 1, 1]. -/
theorem test_fft2_impulse_B1 :
    afterD (fft2 numQuarter .dmem 4 .neg (idle [(0, re f1), (1, re f0), (2, re f0), (3, re f0)]).dp)
      (fun d => d.dmem == [(0, re f1), (1, re f1), (2, re f1), (3, re f1)]) = true := by decide +kernel
/-- Section 7: L(3) = 8, L(8) = 32. -/
theorem test_lcalc_3 : after (exec .lcalc (work [] [] [] { Regs.reset with n := 3 })) (fun t => t.dp.r.l == 8) = true := by decide
theorem test_lcalc_8 : after (exec .lcalc (work [] [] [] { Regs.reset with n := 8 })) (fun t => t.dp.r.l == 32) = true := by decide
theorem test_paddedLength_values :
    paddedLength 0 = 1 ∧ paddedLength 1 = 4 ∧ paddedLength 4 = 16 ∧ paddedLength 15 = 32 ∧ paddedLength 1000 = 2048 ∧
      paddedLength 16777215 = 33554432 := by decide +kernel
/-- Section 7: the forward chirp table of N = 2 is [1, −i]. -/
theorem test_chirpgen_N2 :
    afterD (chirpgen numQuarter (work [] [] [] { Regs.reset with n := 2, k := 1 }).dp) (fun d => memIs d.chtab 1 [⟨f0, m1⟩]) = true := by
  decide +kernel
theorem test_chirpgen_zero :
    after (exec .chirpgen (work [] [] [] { Regs.reset with n := 3, k := 0 }))
      (fun t => (Mem.get t.dp.chtab 0).map (·.re) == some f1) = true := by decide +kernel
/-- The chirp table of N = 2, forward. -/
def chirp2 : Mem F64 := [(0, re f1), (1, ⟨f0, m1⟩)]
/-- Section 7: N = 2, DMEM = [5, 7]: AMEM[1] = −7i, AMEM[2] = 0. -/
theorem test_cmod_N2 :
    after (exec .cmod { work [] [] chirp2 { Regs.reset with n := 2, l := 8, k := 1 } with dp :=
        { (work [] [] chirp2 { Regs.reset with n := 2, l := 8, k := 1 }).dp with dmem := [(0, re f5), (1, re f7)] } })
      (fun t => memIs t.dp.amem 1 [⟨f0, m7⟩]) = true := by decide +kernel
theorem test_cmod_padding :
    after (exec .cmod (work [] [] chirp2 { Regs.reset with n := 2, l := 8, k := 2 })) (fun t => t.dp.amem == [(2, re f0)]) = true := by
  decide +kernel
/-- Section 7: N = 2, L = 8: BMEM = [1, i, 0, 0, 0, 0, 0, i]. -/
theorem test_bkern_N2 :
    after (exec .bkern (work [] [] chirp2 { Regs.reset with n := 2, l := 8, k := 1 })) (fun t => memIs t.dp.bmem 1 [⟨f0, f1⟩]) = true ∧
      after (exec .bkern (work [] [] chirp2 { Regs.reset with n := 2, l := 8, k := 7 })) (fun t => memIs t.dp.bmem 7 [⟨f0, f1⟩]) = true := by
  decide +kernel
theorem test_bkern_ends_and_gap :
    after (exec .bkern (work [] [] chirp2 { Regs.reset with n := 2, l := 8, k := 0 })) (fun t => t.dp.bmem == [(0, re f1)]) = true ∧
      after (exec .bkern (work [] [] chirp2 { Regs.reset with n := 2, l := 8, k := 6 })) (fun t => t.dp.bmem == [(6, re f0)]) = true := by
  decide +kernel
/-- A5 as AMEM[K]·BMEM[K]: (−i)·(−2) = 2i. -/
theorem test_pmul_A5 :
    after (exec .pmul (work [(3, ⟨f0, m1⟩)] [(3, re m2)] [] { Regs.reset with k := 3 })) (fun t => memIs t.dp.amem 3 [⟨f0, f2⟩]) = true := by
  decide +kernel
/-- Section 7: (L, AMEM[1], chirp[1]) = (8, −16i, −i) gives DMEM[1] = −2. -/
theorem test_wback_N2 :
    after (exec .wback (work [(1, ⟨f0, m16⟩)] [] chirp2 { Regs.reset with n := 2, l := 8, k := 1 }))
      (fun t => memIs t.dp.dmem 1 [re m2]) = true := by decide +kernel

/-! ## Primitives: the A vectors of section 5 -/

/-- T = (1, 2), Z = (3, −1). -/
def prims : State := work [] [] [] { Regs.reset with t := ⟨f1, f2⟩, z := ⟨f3, m1⟩ }

theorem test_czero_R103 :
    answers (exec (.czero (.reg .t)) prims) (work [] [] [] { Regs.reset with t := re f0, z := ⟨f3, m1⟩ }) = true := by
  decide +kernel
theorem test_cadd_A1 : after (exec (.cadd (.reg .p) (.reg .t) (.reg .z)) prims) (fun t => t.dp.r.p == ⟨f4, f1⟩) = true := by
  decide +kernel
theorem test_csub_A2 : after (exec (.csub (.reg .p) (.reg .t) (.reg .z)) prims) (fun t => t.dp.r.p == ⟨m2, f3⟩) = true := by
  decide +kernel
theorem test_cmul_A3 : after (exec (.cmul (.reg .t) (.reg .t) (.reg .z)) prims) (fun t => t.dp.r.t == ⟨f5, f5⟩) = true := by
  decide +kernel
/-- A6: cmul((1, 0), (−0.0, −0.0)) = (+0.0, −0.0). -/
theorem test_cmul_A6 : cmul numB64 (re f1) ⟨mz, mz⟩ = ⟨f0, mz⟩ := by decide +kernel
theorem test_conj_R107 : after (exec (.conj (.elem .bmem 2) (.reg .t)) prims) (fun t => t.dp.bmem == [(2, ⟨f1, m2⟩)]) = true := by
  decide +kernel
theorem test_cexp_A9 : after (exec (.cexp (.reg .w) .pos 0 5) prims) (fun t => t.dp.r.w.re == f1) = true := by decide +kernel
theorem test_cdivn_A15 :
    after (exec (.cdivn (.reg .z) (.elem .amem 0) 8) (work [(0, ⟨f8, m16⟩)] [] [] Regs.reset)) (fun t => t.dp.r.z == ⟨f1, m2⟩) = true := by
  decide +kernel

/-! ## Witnesses: states and operands that meet the hypotheses of the obligations -/

/-- `XFORM_POW2 4, FWD` accepted on [1, 2, 3, 4], at its first step. -/
def busy4 : State := { idle mem4 with busy := true, cmdl := 0x401#32, seq := .tPerm, upos := .perm, dp := { (idle mem4).dp with r :=
  { Regs.reset with opc := 1#2, n := 4, nn := 4 } } }

/-- After a protocol fault, idle. -/
def spoiled : State := { idle mem4 with dp := { (idle mem4).dp with pfault := true }, faulty := true }

/-- `XFORM_GEN 2, FWD` in phase G_LCALC. -/
def busyGen : State := { idle mem4 with busy := true, cmdl := 0x202#32, seq := .gLcalc, dp := { (idle mem4).dp with r :=
  { Regs.reset with opc := 2#2, n := 2 } } }

theorem witness_DecodeOfEncode :
    Instr.wf (.xformPow2 16777215 true) = true ∧ encode (.xformPow2 16777215 true) = some 0xFFFFFF05#32 ∧
      Instr.wf (.fft 0) = true ∧ encode (.fft 0) = some 2#32 ∧ (Instr.row (.ifft 3)).isSome = true := by decide

theorem witness_EncodeOfDecode : decode 0xFFFFFFFF#32 = .ok (.reservedOp3 16777215 31 true) := by decide

theorem witness_EveryWordIllegalOrOneCommand :
    (idle mem4).Ready ∧ illegalWord 0x409#32 ∧ illegalWord 0x403#32 ∧ illegalWord 0x404#32 ∧
      (¬ illegalWord 0x400#32 ∧ (0x400#32).toNat % 4 = 0) ∧ (¬ illegalWord 0xFFFFFF05#32 ∧ (0xFFFFFF05#32).toNat % 4 = 1) ∧
      (¬ illegalWord 0x006#32 ∧ (0x006#32).toNat % 4 = 2) := by decide

theorem witness_ResetAtAnyTime : { busy4 with script := [.reset, .wait] }.script = .reset :: [.wait] := by decide

theorem witness_StepRunsDecodedCommand :
    { idle mem4 with script := [.regWrite 0 0x401#32] }.script = .regWrite 0 0x401#32 :: [] ∧
      decode 0x401#32 = .ok (.xformPow2 4 false) ∧ decode 0x409#32 = .error .reservedBits := by decide

theorem witness_StepRunsMicroOp :
    (idle mem4).script = [] ∧ (idle mem4).busy = false ∧ busy4.script = [] ∧ busy4.busy = true ∧ microOp busy4 = none ∧
      busyGen.script = [] ∧ busyGen.busy = true ∧ microOp busyGen = some .lcalc := by decide

theorem witness_WaitReadsStatusWhenIdle :
    ({ busy4 with script := [.wait] }.script = .wait :: [] ∧ busy4.busy = true) ∧
      ({ idle mem4 with script := [.wait] }.script = .wait :: [] ∧ (idle mem4).busy = false) ∧
      { busy4 with script := [.tick, .wait] }.script = .tick :: [.wait] := by decide

theorem witness_DegenerateLengthCompletes :
    (idle []).Ready ∧ commandArgs (.permute 1) = some (0, false, 1) ∧ commandArgs (.xformPow2 0 true) = some (1, true, 0) ∧
      commandArgs (.xformGen 1 true) = some (2, true, 1) ∧ commandArgs (.fft 0) = some (2, false, 0) ∧
      commandArgs (.ifft 1) = some (2, true, 1) := by decide

theorem witness_LengthErrorRaised :
    (commandArgs (.permute 3) = some (0, false, 3) ∧ (idle mem4).Ready ∧ 0 ≠ 2 ∧ 2 ≤ 3 ∧ 3 < 2 ^ 24 ∧ isPow2 3 = false) ∧
      (commandArgs (.xformPow2 16777215 true) = some (1, true, 16777215) ∧ 16777215 < 2 ^ 24 ∧ isPow2 16777215 = false) ∧
      (commandArgs (.fft 3) = some (2, false, 3) ∧ after (exec (.fft 3) (idle mem4)) (fun _ => true) = true) := by decide

theorem witness_CapacityErrorRaised :
    (idle mem4).Ready ∧ (idle mem4).dp.par.nmax = 8 ∧ (idle mem4).dp.par.lmax = 16 ∧
      (commandArgs (.permute 16) = some (0, false, 16) ∧ isPow2 16 = true ∧ 8 < 16) ∧
      (commandArgs (.fft 9) = some (2, false, 9) ∧ 8 < 9) ∧
      (commandArgs (.ifft 8) = some (2, true, 8) ∧ 16 < paddedLength 8) ∧
      (State.reset.Ready ∧ 2 ^ 24 - 1 ≤ State.reset.dp.par.nmax ∧ 2 ^ 26 ≤ State.reset.dp.par.lmax ∧
        after (exec (.fft 16777215) State.reset) (fun _ => true) = true) := by decide +kernel

theorem witness_IllegalEncodingsRaise :
    (idle mem4).Ready ∧ 16777215 < 2 ^ 24 ∧ 31 < 32 ∧ (0x409#32).toNat / 8 % 32 ≠ 0 ∧ (0xF8#32).toNat / 8 % 32 ≠ 0 := by decide

theorem witness_ErrorCompletionChangesOnlyStatus :
    (idle mem4).Ready ∧ after (commandWrite 0x301#32 (idle mem4)) (fun t => t.err) = true ∧
      after (commandWrite 0x902#32 (idle mem4)) (fun t => t.err) = true ∧
      after (commandWrite 0x003#32 (idle mem4)) (fun t => t.err) = true := by decide

theorem witness_ErrorPriority : (idle mem4).Ready ∧ busy4.dp.pfault = false ∧ busy4.busy = true := by decide

theorem witness_IssueForgetsEarlierStatus : { idle mem4 with err := true, ecode := 2#4 }.Ready := by decide

theorem witness_CommandAccepted :
    (idle mem4).Ready ∧ (commandArgs (.permute 8) = some (0, false, 8) ∧ acceptable par 0 8) ∧
      (commandArgs (.xformPow2 2 true) = some (1, true, 2) ∧ acceptable par 1 2) ∧
      (commandArgs (.xformGen 7 false) = some (2, false, 7) ∧ acceptable par 2 7) ∧
      (commandArgs (.fft 2) = some (2, false, 2) ∧ acceptable par 2 2) ∧
      (commandArgs (.ifft 7) = some (2, true, 7) ∧ acceptable par 2 7) :=
  ⟨by decide, ⟨rfl, by decide +kernel⟩, ⟨rfl, by decide +kernel⟩, ⟨rfl, by decide +kernel⟩, ⟨rfl, by decide +kernel⟩, rfl,
    by decide +kernel⟩

/-- P10: only the elements whose index is not its own reversal are written. -/
theorem witness_PermuteCommandReorders :
    (idle [(1, re f1), (3, re f3), (4, re f4), (6, re f2)]).Ready ∧
      (idle [(1, re f1), (3, re f3), (4, re f4), (6, re f2)]).script = [] ∧ acceptable par 0 8 ∧
      ∀ k, k < 8 → revBits (Nat.log2 8) k ≠ k →
        (Mem.get (idle [(1, re f1), (3, re f3), (4, re f4), (6, re f2)]).dp.dmem k).isSome = true := by decide +kernel

theorem witness_XformPow2CommandRunsFft2 :
    (idle mem4).Ready ∧ (idle mem4).script = [] ∧ acceptable (idle mem4).dp.par 1 4 ∧ writtenBelow (idle mem4).dp.dmem 4 := by
  decide +kernel

theorem witness_XformGenCommandRunsReduction :
    commandArgs (.ifft 3) = some (2, true, 3) ∧ (idle mem4).Ready ∧ (idle mem4).script = [] ∧ acceptable par 2 3 ∧
      writtenBelow (idle mem4).dp.dmem 3 := by decide +kernel

theorem witness_AcceptedCommandTerminates :
    (idle mem4).Ready ∧ (idle mem4).script = [] ∧ after (commandWrite 0x302#32 (idle mem4)) (fun t => t.busy) = true ∧
      writtenBelow (idle mem4).dp.dmem ((0x302#32).toNat / 256) := by decide +kernel

/-- Two cores that agree on DMEM[0..1] and the parameters, and differ in DMEM[2], AMEM, CHTAB and the working registers. -/
def other4 : State := { idle [(0, re f1), (1, re f2), (2, re f7)] with cmdl := 0x301#32, err := true, ecode := 2#4, dp :=
  { (idle [(0, re f1), (1, re f2), (2, re f7)]).dp with amem := mem4, chtab := mem4, r := { Regs.reset with l := 8, k := 3 } } }

theorem witness_HiddenStateDoesNotLeak :
    (idle mem4).Ready ∧ other4.Ready ∧ (idle mem4).script = [] ∧ other4.script = [] ∧ (idle mem4).dp.par = other4.dp.par ∧
      (∀ k, k < (0x202#32).toNat / 256 → Mem.get (idle mem4).dp.dmem k = Mem.get other4.dp.dmem k) ∧
      after (commandWrite 0x202#32 (idle mem4)) (fun t => t.busy) = true := by decide +kernel

theorem witness_SwapExchanges :
    1 < 3 ∧ memRead numB64 (memOf .dmem) 1 (idle mem4).dp = .ok (re f2) ∧
      memRead numB64 (memOf .dmem) 3 (idle mem4).dp = .ok (re f4) ∧
      (readable (idle mem4).dp (memOf .dmem) ∧ 3 < (idle mem4).dp.size (memOf .dmem) ∧ 7 < (idle mem4).dp.size (memOf .dmem) ∧
        Mem.get ((idle mem4).dp.mem (memOf .dmem)) 7 = none) := by
  refine ⟨by decide, rfl, rfl, by decide⟩

theorem witness_ButterflyResult :
    1 < 3 ∧ memRead numB64 (memOf .amem) 3 (work mem4 [] [] Regs.reset).dp = .ok (re f4) ∧
      memRead numB64 (memOf .amem) 1 (work mem4 [] [] Regs.reset).dp = .ok (re f2) ∧
      (readable (work mem4 [] [] Regs.reset).dp (memOf .amem) ∧ 3 < (work mem4 [] [] Regs.reset).dp.size (memOf .amem) ∧
        15 < (work mem4 [] [] Regs.reset).dp.size (memOf .amem) ∧
        Mem.get ((work mem4 [] [] Regs.reset).dp.mem (memOf .amem)) 15 = none) := by
  refine ⟨by decide, rfl, rfl, by decide⟩

theorem witness_ChirpEntryWritten : (work [] [] [] { Regs.reset with n := 8, k := 7 }).dp.r.k < 8 := by decide

/-- XFORM_GEN 4 in phase G_CMOD, at index `k`. -/
def cmodAt (k : Nat) : State := { idle mem4 with dp :=
  { (idle mem4).dp with chtab := mem4, r := { Regs.reset with n := 4, l := 16, k := k } } }

/-- K = N − 1; K = N and K = L − 1. -/
theorem witness_ChirpModulation :
    ((cmodAt 3).dp.r.k < (cmodAt 3).dp.par.lmax ∧ (cmodAt 3).dp.r.k < (cmodAt 3).dp.r.n ∧
        memRead numB64 .chtab 3 (cmodAt 3).dp = .ok (re f4) ∧ memRead numB64 .dmem 3 (cmodAt 3).dp = .ok (re f4)) ∧
      ((cmodAt 4).dp.r.k < (cmodAt 4).dp.par.lmax ∧ (cmodAt 4).dp.r.n ≤ (cmodAt 4).dp.r.k) ∧
      ((cmodAt 15).dp.r.k < (cmodAt 15).dp.par.lmax ∧ (cmodAt 15).dp.r.n ≤ (cmodAt 15).dp.r.k) :=
  ⟨⟨by decide, by decide, rfl, rfl⟩, by decide, by decide⟩

/-- K = 0; K = 1 and K = N − 1; K = L − N + 1; K = N and K = L − N. -/
theorem witness_KernelBuild :
    (memRead numB64 .chtab 0 (work [] [] mem4 { Regs.reset with n := 4, l := 16, k := 0 }).dp = .ok (re f1)) ∧
    (∀ k, k = 1 ∨ k = 3 → 0 < k ∧ k < 4 ∧
      ∃ c, memRead numB64 .chtab k (work [] [] mem4 { Regs.reset with n := 4, l := 16, k := k }).dp = .ok c) ∧
    (0 < 13 ∧ 4 ≤ 13 ∧ 16 - 4 < 13 ∧
      memRead numB64 .chtab (16 - 13) (work [] [] mem4 { Regs.reset with n := 4, l := 16, k := 13 }).dp = .ok (re f4)) ∧
    (∀ k, k = 4 ∨ k = 12 → 0 < k ∧ 4 ≤ k ∧ k ≤ 16 - 4 ∧ k < par.lmax) := by
  refine ⟨rfl, ?_, ⟨by decide, by decide, by decide, rfl⟩, ?_⟩
  · rintro k (rfl | rfl)
    · exact ⟨by decide, by decide, re f2, rfl⟩
    · exact ⟨by decide, by decide, re f4, rfl⟩
  · rintro k (rfl | rfl) <;> decide

theorem witness_PointwiseProduct :
    memRead numB64 .amem 3 (work mem4 mem4 [] { Regs.reset with k := 3 }).dp = .ok (re f4) ∧
      memRead numB64 .bmem 3 (work mem4 mem4 [] { Regs.reset with k := 3 }).dp = .ok (re f4) := ⟨rfl, rfl⟩

theorem witness_Writeback :
    3 < par.nmax ∧ memRead numB64 .amem 3 (work mem4 [] mem4 { Regs.reset with l := 16, k := 3 }).dp = .ok (re f4) ∧
      memRead numB64 .chtab 3 (work mem4 [] mem4 { Regs.reset with l := 16, k := 3 }).dp = .ok (re f4) :=
  ⟨by decide, rfl, rfl⟩

theorem witness_BinaryPrimitiveResults :
    readOperand numB64 (.reg .t) prims.dp = .ok ⟨f1, f2⟩ ∧ readOperand numB64 (.elem .amem 3) (work mem4 [] [] Regs.reset).dp = .ok (re f4) ∧
      DestinationExists (.reg .p) prims ∧ DestinationExists (.elem .bmem 15) prims :=
  ⟨rfl, rfl, trivial, (by decide : 15 < prims.dp.size .bmem)⟩

theorem witness_UnaryPrimitiveResults :
    readOperand numB64 (.elem .dmem 3) (idle mem4).dp = .ok (re f4) ∧ DestinationExists (.elem .chtab 7) (idle mem4) :=
  ⟨rfl, (by decide : 7 < (idle mem4).dp.size .chtab)⟩

/-- 2^53 + 1 is midway between 2^53 and 2^53 + 2. -/
theorem witness_RoundsToNearestEven_add :
    let x : F64 := 0x4340000000000000#64
    let v : F64 := 0x4340000000000001#64
    f64IsFinite x = true ∧ f64IsFinite f1 = true ∧ f64IsFinite v = true ∧ f64IsFinite (f64Add x f1) = true ∧
      |f64Units (f64Add x f1) - (f64Units x + f64Units f1)| = |f64Units v - (f64Units x + f64Units f1)| ∧
      f64Units v ≠ f64Units (f64Add x f1) := by decide +kernel

theorem witness_RoundsToNearestEven_sub :
    let x : F64 := 0x4340000000000000#64
    let v : F64 := 0x4340000000000001#64
    f64IsFinite (f64Sub x m1) = true ∧
      |f64Units (f64Sub x m1) - (f64Units x - f64Units m1)| = |f64Units v - (f64Units x - f64Units m1)| ∧
      f64Units v ≠ f64Units (f64Sub x m1) := by decide +kernel

/-- (1 + 2^−52)·1.5 is midway between two neighbours. -/
theorem witness_RoundsToNearestEven_mul :
    let x : F64 := 0x3FF0000000000001#64
    let y : F64 := 0x3FF8000000000000#64
    let v : F64 := 0x3FF8000000000001#64
    f64IsFinite x = true ∧ f64IsFinite y = true ∧ f64IsFinite v = true ∧ f64IsFinite (f64Mul x y) = true ∧
      |f64Units (f64Mul x y) * 2 ^ 1074 - f64Units x * f64Units y| = |f64Units v * 2 ^ 1074 - f64Units x * f64Units y| ∧
      f64Units v ≠ f64Units (f64Mul x y) := by decide +kernel

/-- 2^−1074·3 divided by 2 is midway between two subnormals, so also for `rdivn` by 2^1; the other end of j is 26. -/
theorem witness_RoundsToNearestEven_div :
    let x : F64 := 3#64
    let v : F64 := 1#64
    f64IsFinite x = true ∧ f64IsFinite f2 = true ∧ f64IsFinite v = true ∧ f64IsFinite (f64Div x f2) = true ∧
      |f64Units (f64Div x f2) * f64Units f2 - f64Units x * 2 ^ 1074| = |f64Units v * f64Units f2 - f64Units x * 2 ^ 1074| ∧
      f64Units v ≠ f64Units (f64Div x f2) ∧
      |f64Units (f64DivN x (2 ^ 1)) * 2 ^ 1 - f64Units x| = |f64Units v * 2 ^ 1 - f64Units x| ∧
      f64Units v ≠ f64Units (f64DivN x (2 ^ 1)) ∧ f64IsFinite (f64DivN x (2 ^ 26)) = true := by decide +kernel

/-- AMEM, BMEM, CHTAB and DMEM as given, N = 4, L = 16, K = `k`. -/
def workAt (a b c d : Mem F64) (k : Nat) : State := { idle d with dp :=
  { (idle d).dp with amem := a, bmem := b, chtab := c, r := { Regs.reset with n := 4, l := 16, k := k } } }

theorem witness_UnwrittenReadFaults_memories :
    (idle mem4).dp.pfault = false ∧ 7 < (idle mem4).dp.size (memOf .dmem) ∧ Mem.get ((idle mem4).dp.mem (memOf .dmem)) 7 = none ∧
      memRead numB64 (memOf .dmem) 0 (idle mem4).dp = .ok (re f1) ∧
      (15 < (idle mem4).dp.size .bmem ∧ Mem.get ((idle mem4).dp.mem .bmem) 15 = none) ∧
      (7 < (idle mem4).dp.size .chtab ∧ Mem.get ((idle mem4).dp.mem .chtab) 7 = none) ∧
      readOperand numB64 (.elem .dmem 0) (idle mem4).dp = .ok (re f1) := by
  refine ⟨by decide, by decide, by decide, rfl, by decide, by decide, rfl⟩

/-- CMOD at K = N − 1, first CHTAB and then DMEM unwritten; BKERN at K = 0, N − 1 and L − N + 1. -/
theorem witness_UnwrittenReadFaults_bluestein :
    ((workAt [] [] [] mem4 3).dp.pfault = false ∧ 3 < (workAt [] [] [] mem4 3).dp.r.n ∧ 3 < par.nmax ∧
        Mem.get (workAt [] [] [] mem4 3).dp.chtab 3 = none) ∧
      ((Mem.get (workAt [] [] mem4 [] 3).dp.chtab 3).isSome = true ∧ Mem.get (workAt [] [] mem4 [] 3).dp.dmem 3 = none) ∧
      ((workAt [] [] [] [] 0).dp.r.k = 0 ∧ Mem.get (workAt [] [] [] [] 0).dp.chtab 0 = none) ∧
      (0 < 3 ∧ 3 < (workAt [] [] [] [] 3).dp.r.n ∧ 3 < par.nmax) ∧
      (0 < 13 ∧ (workAt [] [] [] [] 13).dp.r.n ≤ 13 ∧ (workAt [] [] [] [] 13).dp.r.l - 4 < 13 ∧
        (workAt [] [] [] [] 13).dp.r.l - 13 < par.nmax ∧ Mem.get (workAt [] [] [] [] 13).dp.chtab (16 - 13) = none) := by decide

/-- PMUL and WBACK at the last index of AMEM; PMUL with BMEM[K] and WBACK with CHTAB[K] unwritten. -/
theorem witness_UnwrittenReadFaults_products :
    (15 < par.lmax ∧ Mem.get (workAt [] [] [] [] 15).dp.amem 15 = none) ∧
      ((Mem.get (workAt mem4 [] [] [] 3).dp.amem 3).isSome = true ∧ Mem.get (workAt mem4 [] [] [] 3).dp.bmem 3 = none ∧
        3 < par.nmax ∧ Mem.get (workAt mem4 [] [] [] 3).dp.chtab 3 = none) := by decide

theorem witness_UnwrittenReadFaults_host :
    (idle mem4).dp.pfault = false ∧ (idle mem4).busy = false ∧ 7 < par.nmax ∧ Mem.get (idle mem4).dp.dmem 7 = none ∧
      { idle mem4 with script := [.hread 7] }.script = .hread 7 :: [] ∧
      busTarget par 128 16 = some (.elem 7) := by decide

theorem witness_RoutinesRefuseOtherLengths : ∀ k, (3 : Nat) ≠ 2 ^ k ∧ (0 : Nat) ≠ 2 ^ k := by
  intro k
  refine ⟨?_, (Nat.two_pow_pos k).ne⟩
  cases k with
  | zero => decide
  | succ k => rw [pow_succ]; omega

theorem witness_BitrevContract :
    readable (idle mem8).dp (memOf .dmem) ∧ 2 ^ 3 ≤ (idle mem8).dp.size (memOf .dmem) ∧
      ∀ i, i < 2 ^ 3 → revBits 3 i ≠ i → (Mem.get ((idle mem8).dp.mem (memOf .dmem)) i).isSome = true := by decide +kernel

theorem witness_BitrevInvolution :
    readable (idle mem4).dp (memOf .dmem) ∧ 2 ^ 2 ≤ (idle mem4).dp.size (memOf .dmem) ∧
      afterD (bitrev numB64 .dmem (2 ^ 2) (idle mem4).dp)
        (fun d1 => afterD (bitrev numB64 .dmem (2 ^ 2) d1) (fun _ => true)) = true := by decide +kernel

theorem witness_TransformRoutinesComplete :
    readable (idle mem4).dp (memOf .dmem) ∧ 2 ^ 2 ≤ (idle mem4).dp.size (memOf .dmem) ∧
      writtenBelow ((idle mem4).dp.mem (memOf .dmem)) (2 ^ 2) := by decide +kernel

theorem witness_ButterfliesCommute :
    0 ≠ 2 ∧ 1 ≠ 3 ∧ 0 ≠ 1 ∧ 0 ≠ 3 ∧ 2 ≠ 1 ∧ 2 ≠ 3 ∧
      afterD (bfly numB64 .dmem 0 2 ((idle mem4).dp.withRegs (fun r => { r with w := re f1 }))) (fun d1 =>
        afterD (bfly numB64 .dmem 1 3 (d1.withRegs (fun r => { r with w := ⟨f0, m1⟩ }))) (fun _ => true)) = true ∧
      afterD (bfly numB64 .dmem 1 3 ((idle mem4).dp.withRegs (fun r => { r with w := ⟨f0, m1⟩ }))) (fun d1 =>
        afterD (bfly numB64 .dmem 0 2 (d1.withRegs (fun r => { r with w := re f1 }))) (fun _ => true)) = true := by decide +kernel

/-- A datapath over the reals: [1, 2] in DMEM, AMEM and BMEM; N = 2. -/
noncomputable def exact2 : Datapath ℝ :=
  { par := par, pfault := false, draws := 0, dmem := [(0, ⟨1, 0⟩), (1, ⟨2, 0⟩)], amem := [(0, ⟨1, 0⟩), (1, ⟨2, 0⟩)],
    bmem := [(0, ⟨1, 0⟩), (1, ⟨2, 0⟩)], chtab := [],
    r := { opc := 2#2, n := 2, s := .neg, msel := .dmem, nn := 0, ss := .neg, i := 0, j := 0, msk := 0, step := 0, stride := 0,
           g := 0, lo := 0, hi := 0, w := ⟨0, 0⟩, p := ⟨0, 0⟩, t := ⟨0, 0⟩, l := 0, k := 0, z := ⟨0, 0⟩ } }

theorem exact2_holds : holds [(0, ⟨1, 0⟩), (1, ⟨2, 0⟩)] 2 (fun k => (k : ℂ) + 1) := by
  intro k hk
  interval_cases k
  · exact ⟨⟨1, 0⟩, rfl, by simp [Cplx.toC, Complex.ext_iff]⟩
  · exact ⟨⟨2, 0⟩, rfl, by norm_num [Cplx.toC, Complex.ext_iff]⟩

theorem witness_Fft2ComputesDft :
    readable exact2 (memOf .dmem) ∧ 2 ^ 1 ≤ exact2.size (memOf .dmem) ∧
      holds (exact2.mem (memOf .dmem)) (2 ^ 1) (fun k => (k : ℂ) + 1) := ⟨.inl rfl, by decide, exact2_holds⟩

theorem witness_Fft2RoundTrip :
    Sign.neg ≠ Sign.pos ∧ readable exact2 (memOf .bmem) ∧ 2 ^ 1 ≤ exact2.size (memOf .bmem) ∧
      holds (exact2.mem (memOf .bmem)) (2 ^ 1) (fun k => (k : ℂ) + 1) := ⟨by decide, .inl rfl, by decide, exact2_holds⟩

/-- An idle machine over the reals, DMEM = [1, 2]. -/
noncomputable def exactIdle : State.Of ℝ := { State.Of.resetWith ⟨0, 0⟩ with dp := exact2 }

/-- N = 0 and N = 1 are degenerate, N = 2 is accepted; the elements 0 and 1 are written. -/
theorem witness_GeneralTransformComputesDft :
    (exact2.pfault = false ∧ 2 ≤ exact2.r.n ∧ exact2.r.n ≤ exact2.par.nmax ∧ paddedLength exact2.r.n ≤ exact2.par.lmax ∧
      holds exact2.dmem exact2.r.n (fun k => (k : ℂ) + 1)) ∧
    (exactIdle.Ready ∧ exactIdle.script = [] ∧ acceptable exactIdle.dp.par 2 2 ∧
      holds exactIdle.dp.dmem 2 (fun k => (k : ℂ) + 1) ∧ holds exactIdle.dp.dmem 1 (fun k => (k : ℂ) + 1)) :=
  ⟨⟨rfl, by decide, by decide, by decide, exact2_holds⟩, ⟨⟨rfl, rfl⟩, rfl, (by decide +kernel : acceptable par 2 2), exact2_holds,
    fun k hk => exact2_holds k (by omega)⟩⟩

theorem witness_ConvolutionOfWorkMemories :
    2 ^ 1 ≤ exact2.par.lmax ∧ holds exact2.amem (2 ^ 1) (fun k => (k : ℂ) + 1) ∧
      holds exact2.bmem (2 ^ 1) (fun k => (k : ℂ) + 1) := ⟨by decide, exact2_holds, exact2_holds⟩

theorem witness_HostAccessesElements :
    (idle mem4).Ready ∧ 7 < (idle mem4).dp.par.nmax ∧ { idle mem4 with script := [.hwrite 7 (re f1)] }.script = .hwrite 7 (re f1) :: [] ∧
      { idle mem4 with script := [.hread 3] }.script = .hread 3 :: [] ∧ Mem.get (idle mem4).dp.dmem 3 = some (re f4) ∧
      (idle mem4).dp.par.nmax ≤ 8 ∧ { idle mem4 with script := [.hwrite 8 (re f1)] }.script = .hwrite 8 (re f1) :: [] ∧
      { busy4 with script := [.hread 8] }.script = .hread 8 :: [] := by decide

theorem witness_RegisterAccesses :
    { busy4 with script := [.regRead 0] }.script = .regRead 0 :: [] ∧ { busy4 with script := [.regRead 1] }.script = .regRead 1 :: [] ∧
      { busy4 with script := [.regWrite 1 0xFFFFFFFF#32] }.script = .regWrite 1 0xFFFFFFFF#32 :: [] ∧
      2 ≤ 2 ∧ { idle [] with script := [.regRead 2] }.script = .regRead 2 :: [] ∧
      { idle [] with script := [.regWrite 2 0#32] }.script = .regWrite 2 0#32 :: [] := by decide

/-- The last element that exists, the default layout and another one. -/
theorem witness_BusImage :
    7 < (idle mem8).dp.par.nmax ∧ layoutWf 8 (idle mem8).dp.par.layout ∧ layoutWf 8 otherLayout ∧
      128 = (idle mem8).dp.par.dmemBase + (idle mem8).dp.par.layout.size * 7 ∧ (idle mem8).Ready ∧
      Mem.get (idle mem8).dp.dmem 7 = some (re f10) := by decide

/-- Refused: an element's width between two elements, at NMAX, and a register's width at REG_BASE + 8. -/
theorem witness_BusImage_refused :
    ∀ p ∈ [(24, 16), (144, 16), (8, 4), (16, 8)],
      ¬ (p.2 = 4 ∧ (p.1 = par.regBase ∨ p.1 = par.regBase + 4)) ∧
        ¬ (p.2 = par.layout.size ∧ ∃ k, k < par.nmax ∧ p.1 = par.dmemBase + par.layout.size * k) := by decide

theorem witness_AccessWhileBusyIsProtocolFault :
    busy4.busy = true ∧ busy4.dp.pfault = false ∧ 7 < busy4.dp.par.nmax ∧
      { busy4 with script := [.regWrite 0 0#32] }.script = .regWrite 0 0#32 :: [] ∧
      { busy4 with script := [.hwrite 7 (re f1)] }.script = .hwrite 7 (re f1) :: [] ∧
      { busy4 with script := [.hread 7] }.script = .hread 7 :: [] ∧
      busTarget busy4.dp.par 0 (wordBytes 0#32).length = some (.reg 0) ∧
      busTarget busy4.dp.par 128 (elemBytes setupB64.image busy4.dp.par.layout (re f1)).length = some (.elem 7) ∧
      busTarget busy4.dp.par 16 16 = some (.elem 0) := by decide

theorem witness_ProtocolFaultIsSticky :
    after (step { spoiled with script := [.reset] }) (fun t => spoiled.dp.pfault && !t.dp.pfault) = true ∧
      after (step { busy4 with script := [.hread 0] }) (fun t => !busy4.dp.pfault && t.dp.pfault) = true ∧
      after (step { spoiled with script := [.reset] }) (fun t => spoiled.faulty && t.faulty) = true ∧
      after (step { busy4 with script := [.hread 0] }) (fun t => !busy4.faulty && t.faulty) = true := by decide

theorem witness_AfterProtocolFaultNothingIsPromised :
    spoiled.dp.pfault = true ∧ 7 < spoiled.dp.par.nmax ∧ { spoiled with script := [.hread 7] }.script = .hread 7 :: [] ∧
      { spoiled with script := [.regWrite 0 0#32] }.script = .regWrite 0 0#32 :: [] := by decide

/-- The invariant at a busy state: in the middle of T_PERM. -/
theorem busy4_inv : busy4.Inv :=
  ⟨by decide +kernel, by decide +kernel, by decide +kernel,
    (by decide +kernel : busy4.busy = true ∧ busy4.CommandWf ∧ busy4.dp.r.opc = 1#2 ∧ busy4.OnMem .dmem busy4.dp.r.n ∧
      busy4.dp.r.ss = busy4.dp.r.s ∧ busy4.upos = .perm ∧ busy4.dp.r.PermWf), by decide⟩

theorem witness_StepKeepsInvariant : busy4.Inv ∧ after (step busy4) (fun t => t.busy) = true := ⟨busy4_inv, by decide⟩

theorem witness_SequencerStopsOnlyOnUnwrittenInput : busy4.Inv ∧ busy4.busy = true := ⟨busy4_inv, by decide⟩

/-- The invariant in a phase of XFORM_GEN. -/
theorem busyGen_inv : busyGen.Inv :=
  ⟨by decide +kernel, by decide +kernel, by decide +kernel, (by decide +kernel : busyGen.busy = true ∧ busyGen.GenWf),
    by decide⟩

theorem witness_SequencerKeepsToItsSequence :
    (busy4.Inv ∧ busy4.busy = true ∧ after (coreStep busy4) (fun _ => true) = true ∧ busy4.dp.r.n ≤ 4) ∧
      (busyGen.Inv ∧ busyGen.busy = true ∧ after (coreStep busyGen) (fun _ => true) = true ∧ busyGen.dp.r.opc = 2#2 ∧
        busyGen.seq ≠ .gWback) := ⟨⟨busy4_inv, by decide, by decide, by decide⟩, busyGen_inv, by decide, by decide, by decide, by decide⟩

theorem witness_IdleCoreTouchesNoMemory :
    (idle mem4).busy = false ∧ after (step { idle mem4 with script := [.hwrite 0 (re f2)] }) (fun t => t.dp.dmem != mem4) = true ∧
      after (step { idle mem4 with script := [.busWrite 16 (elemBytes setupB64.image par.layout (re f2))] })
        (fun t => t.dp.dmem != mem4) = true ∧
      after (step { idle mem4 with script := [.regWrite 0 0x401#32] }) (fun t => t.busy) = true ∧
      after (step { idle mem4 with script := [.busWrite 0 (wordBytes 0x401#32)] }) (fun t => t.busy) = true := by decide

/-- `busy4` with other data. -/
def busy4' : State := { busy4 with dp := { busy4.dp with dmem := mem8, amem := mem4, r := { busy4.dp.r with w := re f7, z := re f8 } } }

theorem witness_ControlIgnoresData :
    busy4.busy = true ∧ sameControl busy4 busy4' ∧ after (coreStep busy4) (fun _ => true) = true ∧
      after (coreStep busy4') (fun _ => true) = true := by decide

theorem witness_ImpulseIsAllOnes :
    let m : Mem F64 := [(0, re f1), (1, re f0), (2, re f0), (3, re f0)]
    readable (idle m).dp (memOf .dmem) ∧ 2 ^ 2 ≤ (idle m).dp.size (memOf .dmem) ∧
      Mem.get ((idle m).dp.mem (memOf .dmem)) 0 = some ⟨0x3FF0000000000000#64, 0#64⟩ ∧
      ∀ i, i < 2 ^ 2 → 0 < i → Mem.get ((idle m).dp.mem (memOf .dmem)) i = some ⟨0#64, 0#64⟩ := by decide +kernel

end Sys2Proof.Tests
end

section
/-! What the write of a command word issues (30_encoding.md R75, R82), and the arithmetic of the lengths. -/

namespace Sys2Proof.Machine

variable {R : Type}

/-! ## The command word (30_encoding.md R75, R82) -/

theorem lenField_eq (w : Word) : lenField w = w.toNat / 256 := by
  have := w.isLt
  simp only [lenField, field]
  omega

theorem opField_lt (w : Word) : opField w < 4 := by
  simp only [opField, field]
  omega

/-- A word with RSV = 0 is assembled from its other fields. -/
theorem assemble_fields {w : Word} (h : rsvField w = 0) : assemble (lenField w) 0 (invField w) (opField w) = w := by
  have hw := w.isLt
  have hinv : (invField w).toNat = w.toNat / 4 % 2 := by
    rcases Nat.mod_two_eq_zero_or_one (w.toNat / 4) with h | h <;> simp [invField, field, h]
  apply BitVec.eq_of_toNat_eq
  simp only [assemble, BitVec.toNat_ofNat, lenField, opField, rsvField, field, hinv] at h ⊢
  omega

/-- A word with OP = 3 is assembled from its fields. -/
theorem assemble_fields_reserved {w : Word} (h : opField w = 3) :
    assemble (lenField w) (rsvField w) (invField w) 3 = w := by
  have hw := w.isLt
  have hinv : (invField w).toNat = w.toNat / 4 % 2 := by
    rcases Nat.mod_two_eq_zero_or_one (w.toNat / 4) with h | h <;> simp [invField, field, h]
  apply BitVec.eq_of_toNat_eq
  simp only [assemble, BitVec.toNat_ofNat, lenField, opField, rsvField, field, hinv] at h ⊢
  omega

/-- The write of a word to CMD issues that very word, as a legal one with OP below 3 or as an illegal one (60_exceptions.md
R197, R198). -/
theorem commandWriteBy_eq_issue (nm : Num R) (w : Word) :
    (opField w ≠ 3 ∧ ∀ s : State.Of R, commandWriteBy (perform nm) w s = issueLegal w s) ∨
      ∀ s : State.Of R, commandWriteBy (perform nm) w s = issueIllegal w s := by
  by_cases h3 : opField w = 3
  · right
    intro s
    simp [commandWriteBy, decode, h3, perform, assemble_fields_reserved]
  · by_cases hr : rsvField w = 0
    · have hw := assemble_fields hr
      by_cases h0 : opField w = 0
      · cases hi : invField w with
        | true =>
          right
          intro s
          simp only [h0, hi] at hw
          simp [commandWriteBy, decode, h0, hr, hi, perform, hw]
        | false =>
          refine .inl ⟨h3, fun s => ?_⟩
          simp only [h0, hi] at hw
          simp [commandWriteBy, decode, h0, hr, hi, perform, hw]
      · by_cases h1 : opField w = 1
        · refine .inl ⟨h3, fun s => ?_⟩
          rw [h1] at hw
          simp [commandWriteBy, decode, h1, hr, perform, hw]
        · have h2 : opField w = 2 := by have := opField_lt w; omega
          refine .inl ⟨h3, fun s => ?_⟩
          rw [h2] at hw
          simp [commandWriteBy, decode, h2, hr, perform, hw]
    · right
      intro s
      simp [commandWriteBy, decode, h3, hr]

/-! ## Powers of two and the padded length (43_general_transform.md R167) -/

theorem isPow2_two_mul {n : Nat} (h : isPow2 n = true) : isPow2 (2 * n) = true := by
  obtain ⟨k, rfl⟩ := (isPow2_iff n).1 h
  exact (isPow2_iff _).2 ⟨k + 1, by rw [pow_succ, mul_comm]⟩

theorem isPow2_pos {n : Nat} (h : isPow2 n = true) : 0 < n := by
  obtain ⟨k, rfl⟩ := (isPow2_iff n).1 h
  positivity

/-- Of two powers of two, twice the smaller divides the larger. -/
theorem two_mul_dvd_of_isPow2_lt {a b : Nat} (ha : isPow2 a = true) (hb : isPow2 b = true) (h : a < b) : 2 * a ∣ b := by
  obtain ⟨i, rfl⟩ := (isPow2_iff a).1 ha
  obtain ⟨j, rfl⟩ := (isPow2_iff b).1 hb
  have hij : i < j := (Nat.pow_lt_pow_iff_right (by decide)).1 h
  rw [mul_comm, ← pow_succ]
  exact Nat.pow_dvd_pow 2 hij

theorem doubleUntil_isPow2 (fuel n l : Nat) (h : isPow2 l = true) : isPow2 (doubleUntil fuel n l) = true := by
  induction fuel generalizing l with
  | zero => exact h
  | succ fuel ih =>
    unfold doubleUntil
    split
    · exact ih _ (isPow2_two_mul h)
    · exact h

/-- With turns enough to pass `2n` the doubling passes it. -/
theorem lt_doubleUntil (fuel n l : Nat) (h : 2 * n < l * 2 ^ fuel) : 2 * n < doubleUntil fuel n l := by
  induction fuel generalizing l with
  | zero => simpa [doubleUntil] using h
  | succ fuel ih =>
    unfold doubleUntil
    split
    · exact ih _ (by rw [pow_succ] at h; linarith)
    · omega

theorem paddedLength_isPow2 (n : Nat) : isPow2 (paddedLength n) = true :=
  doubleUntil_isPow2 _ _ _ (by decide)

theorem two_mul_lt_paddedLength (n : Nat) : 2 * n < paddedLength n := by
  refine lt_doubleUntil _ _ _ ?_
  have h : n < 2 ^ (Nat.log2 n + 1) := Nat.lt_log2_self
  have e : 1 * 2 ^ (Nat.log2 n + 3) = 4 * 2 ^ (Nat.log2 n + 1) := by ring
  omega

end Sys2Proof.Machine
end

section
/-! What the sequencer's advance leaves unchanged, and what a micro-operation touches (10_state.md R27, R29). -/

namespace Sys2Proof.Machine

variable {R : Type}

/-! ## The phases whose routine is BITREV, STAGES or FFT2 -/

/-- Whether the routine of the phase is BITREV, STAGES or FFT2. -/
def Phase.isRoutine : Phase → Bool
  | .pPerm | .tPerm | .tStages | .gFfta | .gFftb | .gIffta => true
  | .idle | .gLcalc | .gChirp | .gCmod | .gBkern | .gPmul | .gWback => false

theorem Phase.routine_cases {ph : Phase} (h : ph.isRoutine = true) :
    ph = .pPerm ∨ ph = .tPerm ∨ ph = .tStages ∨ ph = .gFfta ∨ ph = .gFftb ∨ ph = .gIffta := by
  revert h
  cases ph <;> decide

theorem advancePhase_of_routine {s : State.Of R} (hr : s.seq.isRoutine = true) : advancePhase s = advanceRoutine s := by
  rcases Phase.routine_cases hr with hs | hs | hs | hs | hs | hs <;> simp [advancePhase, hs]

/-! ## The branches of the advance -/

section Branches

variable {s : State.Of R}

theorem stageTest_of_lt (h : s.dp.r.step < s.dp.r.nn) :
    stageTest s = { s.withRegs Regs.startStage with upos := .twld } := if_pos h
theorem stageTest_of_not_lt (h : ¬ s.dp.r.step < s.dp.r.nn) : stageTest s = endPhase s := if_neg h

theorem advancePerm_of_lt (h : s.dp.r.i + 1 < s.dp.r.nn) : advancePerm s = s.withRegs Regs.nextPerm := if_pos h
theorem advancePerm_of_not_lt (h : ¬ s.dp.r.i + 1 < s.dp.r.nn) : advancePerm s = endPerm (s.withRegs Regs.nextPerm) :=
  if_neg h

theorem advanceGroup_of_lt (h : s.dp.r.g + 1 < s.dp.r.step) :
    advanceGroup s = { s.withRegs Regs.nextGroup with upos := .twld } := if_pos h
theorem advanceGroup_of_not_lt (h : ¬ s.dp.r.g + 1 < s.dp.r.step) :
    advanceGroup s = stageTest (s.withRegs fun r => r.nextGroup.nextStage) := if_neg h

theorem advanceBfly_of_lt (h : s.dp.r.lo + 2 * s.dp.r.step < s.dp.r.nn) :
    advanceBfly s = s.withRegs fun r => r.nextPair.startPair := if_pos h
theorem advanceBfly_of_not_lt (h : ¬ s.dp.r.lo + 2 * s.dp.r.step < s.dp.r.nn) :
    advanceBfly s = advanceGroup (s.withRegs Regs.nextPair) := if_neg h

theorem advanceK_of_lt {count : Nat} (h : s.dp.r.k + 1 < count) : advanceK count s = s.withRegs Regs.nextK := if_pos h
theorem advanceK_of_not_lt {count : Nat} (h : ¬ s.dp.r.k + 1 < count) :
    advanceK count s = endPhase (s.withRegs Regs.nextK) := if_neg h

end Branches

/-! ## What the advance leaves unchanged -/

/-- The registers with those erased that the sequencer's advance may change. -/
def Regs.stored (r : Regs R) : Regs R :=
  { r with msel := .dmem, nn := 0, ss := .neg, i := 0, j := 0, msk := 0, step := 0, stride := 0, g := 0, lo := 0, hi := 0,
           k := 0 }

/-- The state with SEQ, the place in the routine and the loop registers erased. -/
def State.Of.stored (s : State.Of R) : State.Of R :=
  { s with seq := .idle, upos := .single, dp := { s.dp with r := s.dp.r.stored } }

/-- From `s` to `t` nothing changed but SEQ, the place in the routine and the loop registers, or the command has completed as
well (item DONE of 10_state.md R27). -/
def Advances (s t : State.Of R) : Prop := t.stored = s.stored ∨ t.stored = (completeCommand s).stored

/-- What neither the erasure nor completion changes, the advance does not change. -/
theorem Advances.congr {α : Type} {s t : State.Of R} (h : Advances s t) (f : State.Of R → α)
    (hf : ∀ u, f u.stored = f u := by exact fun _ => rfl)
    (hc : ∀ u, f (completeCommand u) = f u := by exact fun _ => rfl) : f t = f s := by
  rcases h with h | h
  · rw [← hf t, h, hf]
  · rw [← hf t, h, hf, hc]

theorem endPhase_advances (s : State.Of R) : Advances s (endPhase s) := by
  unfold endPhase
  cases s.seq
  case pPerm | tPerm | tStages | gWback => exact .inr rfl
  all_goals exact .inl rfl

/-- The registers with the counters of BITREV and STAGES erased. -/
def Regs.noCounters (r : Regs R) : Regs R :=
  { r with i := 0, j := 0, msk := 0, step := 0, stride := 0, g := 0, lo := 0, hi := 0 }

/-- An update of the registers that changes the counters of BITREV and STAGES only. -/
def CountersOnly (f : Regs R → Regs R) : Prop := ∀ r, (f r).noCounters = r.noCounters

theorem CountersOnly.n_l_k {f : Regs R → Regs R} (hf : CountersOnly f) (r : Regs R) :
    (f r).n = r.n ∧ (f r).l = r.l ∧ (f r).k = r.k :=
  ⟨(congrArg Regs.n (hf r) :), (congrArg Regs.l (hf r) :), (congrArg Regs.k (hf r) :)⟩

/-- All that the advance inside BITREV or STAGES can make of `s`. -/
inductive RoutineMove (s : State.Of R) : State.Of R → Prop
  /-- the routine goes on; BFLY comes after TWLD or BFLY only -/
  | stay (f : Regs R → Regs R) (u : RoutinePos) : CountersOnly f → (u = .bfly → s.upos = .twld ∨ s.upos = .bfly) →
      RoutineMove s { s.withRegs f with upos := u }
  /-- XFORM_POW2 moves from T_PERM to T_STAGES -/
  | stages (f : Regs R → Regs R) : CountersOnly f → s.seq = .tPerm →
      RoutineMove s { s.withRegs f with seq := .tStages, upos := .twld }
  /-- the routine of the phase has ended -/
  | done (f : Regs R → Regs R) : CountersOnly f → RoutineMove s (endPhase (s.withRegs f))

/-- A change of counters before the move is part of it. -/
theorem RoutineMove.of_withRegs {s t : State.Of R} {g : Regs R → Regs R} (hg : CountersOnly g)
    (h : RoutineMove (s.withRegs g) t) : RoutineMove s t := by
  have comp : ∀ f : Regs R → Regs R, CountersOnly f → CountersOnly (fun r => f (g r)) := fun f hf r =>
    (hf (g r)).trans (hg r)
  cases h with
  | stay f u hf hu => exact .stay (fun r => f (g r)) u (comp f hf) hu
  | stages f hf hs => exact .stages (fun r => f (g r)) (comp f hf) hs
  | done f hf => exact .done (fun r => f (g r)) (comp f hf)

theorem stageTest_move (s : State.Of R) : RoutineMove s (stageTest s) := by
  by_cases h : s.dp.r.step < s.dp.r.nn
  · rw [stageTest_of_lt h]
    exact .stay Regs.startStage .twld (fun _ => rfl) nofun
  · rw [stageTest_of_not_lt h]
    exact .done id (fun _ => rfl)

theorem endPerm_move (s : State.Of R) : RoutineMove s (endPerm s) := by
  unfold endPerm
  split
  · exact .done id (fun _ => rfl)
  · rename_i hs
    by_cases h : 1 < s.dp.r.nn
    · rw [stageTest_of_lt h]
      exact .stages (fun r => r.startStages.startStage) (fun _ => rfl) hs
    · have he : endPhase (s.withRegs Regs.startStages) =
          endPhase { s.withRegs Regs.startStages with seq := .tStages } := by
        simp only [endPhase, State.Of.withRegs_seq, hs]
        rfl
      rw [stageTest_of_not_lt h, ← he]
      exact .done Regs.startStages (fun _ => rfl)
  · exact (stageTest_move _).of_withRegs (g := Regs.startStages) (fun _ => rfl)

theorem advancePerm_move {s : State.Of R} (hu : s.upos = .perm) : RoutineMove s (advancePerm s) := by
  by_cases h : s.dp.r.i + 1 < s.dp.r.nn
  · rw [advancePerm_of_lt h]
    exact .stay Regs.nextPerm s.upos (fun _ => rfl) (fun e => nomatch hu.symm.trans e)
  · rw [advancePerm_of_not_lt h]
    exact (endPerm_move _).of_withRegs (g := Regs.nextPerm) (fun _ => rfl)

theorem advanceGroup_move (s : State.Of R) : RoutineMove s (advanceGroup s) := by
  by_cases h : s.dp.r.g + 1 < s.dp.r.step
  · rw [advanceGroup_of_lt h]
    exact .stay Regs.nextGroup .twld (fun _ => rfl) nofun
  · rw [advanceGroup_of_not_lt h]
    exact (stageTest_move _).of_withRegs (g := fun r => r.nextGroup.nextStage) (fun _ => rfl)

theorem advanceBfly_move (s : State.Of R) : RoutineMove s (advanceBfly s) := by
  by_cases h : s.dp.r.lo + 2 * s.dp.r.step < s.dp.r.nn
  · rw [advanceBfly_of_lt h]
    exact .stay (fun r => r.nextPair.startPair) s.upos (fun _ => rfl) .inr
  · rw [advanceBfly_of_not_lt h]
    exact (advanceGroup_move _).of_withRegs (g := Regs.nextPair) (fun _ => rfl)

theorem advanceRoutine_move (s : State.Of R) : RoutineMove s (advanceRoutine s) := by
  unfold advanceRoutine
  split
  · exact .stay id s.upos (fun _ => rfl) .inr
  · exact advancePerm_move ‹_›
  · exact .stay (fun r => r.startGroup.startPair) .bfly (fun _ => rfl) fun _ => .inl ‹_›
  · exact advanceBfly_move s

theorem RoutineMove.advances {s t : State.Of R} (h : RoutineMove s t) : Advances s t := by
  have stored : ∀ f : Regs R → Regs R, CountersOnly f → (s.withRegs f).stored = s.stored := fun f hf =>
    congrArg (fun r : Regs R => { s.stored with dp := { s.dp with r := r.stored } }) (hf s.dp.r)
  cases h with
  | stay f u hf _ => exact .inl (stored f hf)
  | stages f hf _ => exact .inl (stored f hf)
  | done f hf =>
    rcases endPhase_advances (s.withRegs f) with h | h
    · exact .inl (h.trans (stored f hf))
    · exact .inr (h.trans (congrArg completeCommand (stored f hf)))

theorem advanceK_advances (count : Nat) (s : State.Of R) : Advances s (advanceK count s) := by
  by_cases h : s.dp.r.k + 1 < count
  · rw [advanceK_of_lt h]
    exact .inl rfl
  · rw [advanceK_of_not_lt h]
    exact endPhase_advances (s.withRegs Regs.nextK)

theorem advancePhase_advances (s : State.Of R) : Advances s (advancePhase s) := by
  unfold advancePhase
  cases s.seq
  case idle => exact .inl rfl
  case gLcalc => exact endPhase_advances s
  case gChirp | gCmod | gBkern | gPmul | gWback => exact advanceK_advances _ s
  all_goals exact (advanceRoutine_move s).advances

@[simp] theorem advancePhase_cmdl (s : State.Of R) : (advancePhase s).cmdl = s.cmdl :=
  (advancePhase_advances s).congr (·.cmdl)
@[simp] theorem advancePhase_err (s : State.Of R) : (advancePhase s).err = s.err :=
  (advancePhase_advances s).congr (·.err)
@[simp] theorem advancePhase_ecode (s : State.Of R) : (advancePhase s).ecode = s.ecode :=
  (advancePhase_advances s).congr (·.ecode)
@[simp] theorem advancePhase_faulty (s : State.Of R) : (advancePhase s).faulty = s.faulty :=
  (advancePhase_advances s).congr (·.faulty)
@[simp] theorem advancePhase_script (s : State.Of R) : (advancePhase s).script = s.script :=
  (advancePhase_advances s).congr (·.script)
@[simp] theorem advancePhase_par (s : State.Of R) : (advancePhase s).dp.par = s.dp.par :=
  (advancePhase_advances s).congr (·.dp.par)
@[simp] theorem advancePhase_pfault (s : State.Of R) : (advancePhase s).dp.pfault = s.dp.pfault :=
  (advancePhase_advances s).congr (·.dp.pfault)
@[simp] theorem advancePhase_draws (s : State.Of R) : (advancePhase s).dp.draws = s.dp.draws :=
  (advancePhase_advances s).congr (·.dp.draws)
@[simp] theorem advancePhase_w (s : State.Of R) : (advancePhase s).dp.r.w = s.dp.r.w :=
  (advancePhase_advances s).congr (·.dp.r.w)
@[simp] theorem advancePhase_mem (s : State.Of R) (m : MemId) : (advancePhase s).dp.mem m = s.dp.mem m := by
  cases m with
  | dmem => exact (advancePhase_advances s).congr (·.dp.dmem)
  | amem => exact (advancePhase_advances s).congr (·.dp.amem)
  | bmem => exact (advancePhase_advances s).congr (·.dp.bmem)
  | chtab => exact (advancePhase_advances s).congr (·.dp.chtab)

/-- BUSY and DONE stay, or the command completes. -/
theorem advancePhase_busy_done (s : State.Of R) :
    ((advancePhase s).busy = s.busy ∧ (advancePhase s).done = s.done) ∨
      ((advancePhase s).busy = false ∧ (advancePhase s).done = true) := by
  rcases advancePhase_advances s with h | h
  · exact .inl ⟨(congrArg State.Of.busy h :), (congrArg State.Of.done h :)⟩
  · exact .inr ⟨(congrArg State.Of.busy h :), (congrArg State.Of.done h :)⟩

/-- All a new draw can change is the counter. -/
theorem redraw_cases (s : State.Of R) :
    redraw s = s ∨ redraw s = { s with dp := { s.dp with draws := s.dp.draws + 1 } } := by
  unfold redraw
  split
  · exact .inr rfl
  · exact .inl rfl

@[simp] theorem redraw_cmdl (s : State.Of R) : (redraw s).cmdl = s.cmdl := by
  rcases redraw_cases s with h | h <;> rw [h]
@[simp] theorem redraw_busy (s : State.Of R) : (redraw s).busy = s.busy := by
  rcases redraw_cases s with h | h <;> rw [h]
@[simp] theorem redraw_done (s : State.Of R) : (redraw s).done = s.done := by
  rcases redraw_cases s with h | h <;> rw [h]
@[simp] theorem redraw_err (s : State.Of R) : (redraw s).err = s.err := by
  rcases redraw_cases s with h | h <;> rw [h]
@[simp] theorem redraw_ecode (s : State.Of R) : (redraw s).ecode = s.ecode := by
  rcases redraw_cases s with h | h <;> rw [h]
@[simp] theorem redraw_seq (s : State.Of R) : (redraw s).seq = s.seq := by
  rcases redraw_cases s with h | h <;> rw [h]
@[simp] theorem redraw_upos (s : State.Of R) : (redraw s).upos = s.upos := by
  rcases redraw_cases s with h | h <;> rw [h]
@[simp] theorem redraw_faulty (s : State.Of R) : (redraw s).faulty = s.faulty := by
  rcases redraw_cases s with h | h <;> rw [h]
@[simp] theorem redraw_script (s : State.Of R) : (redraw s).script = s.script := by
  rcases redraw_cases s with h | h <;> rw [h]
@[simp] theorem redraw_par (s : State.Of R) : (redraw s).dp.par = s.dp.par := by
  rcases redraw_cases s with h | h <;> rw [h]
@[simp] theorem redraw_pfault (s : State.Of R) : (redraw s).dp.pfault = s.dp.pfault := by
  rcases redraw_cases s with h | h <;> rw [h]
@[simp] theorem redraw_r (s : State.Of R) : (redraw s).dp.r = s.dp.r := by
  rcases redraw_cases s with h | h <;> rw [h]
@[simp] theorem redraw_mem (s : State.Of R) (m : MemId) : (redraw s).dp.mem m = s.dp.mem m := by
  rcases redraw_cases s with h | h <;> rw [h]
  cases m <;> rfl

@[simp] theorem advance_cmdl (s : State.Of R) : (advance s).cmdl = s.cmdl := by simp [advance]
@[simp] theorem advance_err (s : State.Of R) : (advance s).err = s.err := by simp [advance]
@[simp] theorem advance_ecode (s : State.Of R) : (advance s).ecode = s.ecode := by simp [advance]
@[simp] theorem advance_faulty (s : State.Of R) : (advance s).faulty = s.faulty := by simp [advance]
@[simp] theorem advance_script (s : State.Of R) : (advance s).script = s.script := by simp [advance]
@[simp] theorem advance_par (s : State.Of R) : (advance s).dp.par = s.dp.par := by simp [advance]
@[simp] theorem advance_pfault (s : State.Of R) : (advance s).dp.pfault = s.dp.pfault := by simp [advance]
@[simp] theorem advance_mem (s : State.Of R) (m : MemId) : (advance s).dp.mem m = s.dp.mem m := by simp [advance]

theorem advance_busy_done (s : State.Of R) :
    ((advance s).busy = s.busy ∧ (advance s).done = s.done) ∨ ((advance s).busy = false ∧ (advance s).done = true) := by
  simpa [advance] using advancePhase_busy_done s

/-! ## What a micro-operation touches -/

/-- The two records agree but for the Complex registers. -/
abbrev sameIndexRegs (r r' : Regs R) : Prop := r' = { r with w := r'.w, p := r'.p, t := r'.t, z := r'.z }

/-- From `d` to `d'` nothing changed but Complex registers and the elements `ks` of memory `m`, which are written now. -/
structure Touches (m : MemId) (ks : List Nat) (d d' : Datapath R) : Prop where
  fixed : sameFixed d d'
  regs : sameIndexRegs d.r d'.r
  other : ∀ m', m' ≠ m → d'.mem m' = d.mem m'
  kept : ∀ k, k ∉ ks → Mem.get (d'.mem m) k = Mem.get (d.mem m) k
  written : ∀ k, k ∈ ks → (Mem.get (d'.mem m) k).isSome = true
  wf : ∀ m', Mem.wf (d.size m') (d.mem m') = true → Mem.wf (d'.size m') (d'.mem m') = true

namespace Touches

theorem sameIndexRegs_trans {r r' r'' : Regs R} (h : sameIndexRegs r r') (h' : sameIndexRegs r' r'') :
    sameIndexRegs r r'' := by
  rw [h', h]

/-- A change of Complex registers touches no element. -/
theorem of_withRegs (m : MemId) (d : Datapath R) {f : Regs R → Regs R} (hf : sameIndexRegs d.r (f d.r)) :
    Touches m [] d (d.withRegs f) where
  fixed := ⟨rfl, rfl, rfl⟩
  regs := hf
  other m' _ := by simp
  kept k _ := by simp
  written k hk := by simp at hk
  wf m' h := by simpa using h

theorem refl (m : MemId) (d : Datapath R) : Touches m [] d d := of_withRegs m d (f := id) rfl

theorem of_memWrite {m : MemId} {k : Nat} {v : Cplx R} {d d' : Datapath R} (h : memWrite m k v d = .ok d') :
    Touches m [k] d d' := by
  obtain ⟨hk, rfl⟩ := memWrite_ok_iff.1 h
  exact
    { fixed := by simp [sameFixed]
      regs := by simp [sameIndexRegs]
      other := fun m' hm => d.mem_setMem_other _ hm
      kept := fun k' hk' => by simpa using Mem.get_set_other _ v (by simpa using hk')
      written := fun k' hk' => by
        obtain rfl : k' = k := by simpa using hk'
        simp [Mem.get_set_same]
      wf := fun m' hm => by
        by_cases e : m' = m
        · subst e; simpa using Mem.wf_set v hk hm
        · simpa [d.mem_setMem_other _ e] using hm }

theorem trans {m : MemId} {ks ks' : List Nat} {d d' d'' : Datapath R} (h : Touches m ks d d')
    (h' : Touches m ks' d' d'') : Touches m (ks ++ ks') d d'' where
  fixed := ⟨h'.fixed.1.trans h.fixed.1, h'.fixed.2.1.trans h.fixed.2.1, h'.fixed.2.2.trans h.fixed.2.2⟩
  regs := sameIndexRegs_trans h.regs h'.regs
  other m' hm := (h'.other m' hm).trans (h.other m' hm)
  kept k hk := by
    simp only [List.mem_append, not_or] at hk
    exact (h'.kept k hk.2).trans (h.kept k hk.1)
  written k hk := by
    by_cases hk' : k ∈ ks'
    · exact h'.written k hk'
    · rw [h'.kept k hk']
      exact h.written k ((List.mem_append.1 hk).resolve_right hk')
  wf m' hm := h'.wf m' (h.wf m' hm)

/-- A written element stays written. -/
theorem isSome_mono {m : MemId} {ks : List Nat} {d d' : Datapath R} (h : Touches m ks d d') (m' : MemId) (k : Nat)
    (hk : (Mem.get (d.mem m') k).isSome = true) : (Mem.get (d'.mem m') k).isSome = true := by
  by_cases hm : m' = m
  · subst hm
    by_cases hks : k ∈ ks
    · exact h.written k hks
    · rw [h.kept k hks]; exact hk
  · rw [h.other m' hm]; exact hk

end Touches

theorem swap_touches {nm : Num R} {m : MemSel} {a b : Nat} {d d' : Datapath R} (h : swap nm m a b d = .ok d') :
    Touches (memOf m) [a, b] d d' := by
  simp only [swap, except_bind_eq_ok] at h
  obtain ⟨x, -, y, -, d1, h1, h2⟩ := h
  exact ((Touches.of_withRegs _ d rfl).trans (.of_memWrite h1)).trans (.of_memWrite h2)

theorem bfly_touches {nm : Num R} {m : MemSel} {lo hi : Nat} {d d' : Datapath R} (h : bfly nm m lo hi d = .ok d') :
    Touches (memOf m) [hi, lo] d d' := by
  simp only [bfly, except_bind_eq_ok] at h
  obtain ⟨x, -, y, -, d1, h1, h2⟩ := h
  exact ((Touches.of_withRegs _ d rfl).trans (.of_memWrite h1)).trans (.of_memWrite h2)

theorem twld_touches {nm : Num R} (m : MemId) {d d' : Datapath R} (h : twld nm d = .ok d') : Touches m [] d d' := by
  obtain rfl := Except.ok.inj h
  exact .of_withRegs m d rfl

theorem writeZ_touches {m : MemId} {v : Cplx R} {d d' : Datapath R} (h : writeZ m v d = .ok d') :
    Touches m [d.r.k] d d' :=
  (Touches.of_withRegs _ d rfl).trans (.of_memWrite h)

theorem chirpgen_touches {nm : Num R} {d d' : Datapath R} (h : chirpgen nm d = .ok d') :
    Touches .chtab [d.r.k] d d' :=
  .of_memWrite h

theorem cmod_touches {nm : Num R} {d d' : Datapath R} (h : cmod nm d = .ok d') : Touches .amem [d.r.k] d d' := by
  unfold cmod at h
  split at h
  · simp only [except_bind_eq_ok] at h
    obtain ⟨c, -, x, -, h⟩ := h
    exact writeZ_touches h
  · exact writeZ_touches h

theorem bkern_touches {nm : Num R} {d d' : Datapath R} (h : bkern nm d = .ok d') : Touches .bmem [d.r.k] d d' := by
  unfold bkern at h
  split at h
  · obtain ⟨c, -, h⟩ := except_bind_eq_ok.1 h; exact writeZ_touches h
  · split at h
    · obtain ⟨c, -, h⟩ := except_bind_eq_ok.1 h; exact writeZ_touches h
    · split at h
      · obtain ⟨c, -, h⟩ := except_bind_eq_ok.1 h; exact writeZ_touches h
      · exact writeZ_touches h

theorem pmul_touches {nm : Num R} {d d' : Datapath R} (h : pmul nm d = .ok d') : Touches .amem [d.r.k] d d' := by
  simp only [pmul, except_bind_eq_ok] at h
  obtain ⟨a, -, b, -, h⟩ := h
  exact writeZ_touches h

theorem wback_touches {nm : Num R} {d d' : Datapath R} (h : wback nm d = .ok d') : Touches .dmem [d.r.k] d d' := by
  simp only [wback, except_bind_eq_ok] at h
  obtain ⟨a, -, c, -, h⟩ := h
  exact (Touches.of_withRegs _ d rfl).trans (.of_memWrite h)

/-! ## The micro-operation of a step -/

/-- The memory whose elements the micro-operation of the phase writes. -/
def State.Of.target (s : State.Of R) : MemId :=
  match s.seq with
  | .gLcalc | .gChirp => .chtab
  | .gCmod | .gPmul => .amem
  | .gBkern => .bmem
  | .gWback => .dmem
  | .idle | .pPerm | .tPerm | .tStages | .gFfta | .gFftb | .gIffta => memOf s.dp.r.msel

/-- The elements of `target` that the micro-operation of a routine touches. -/
def State.Of.routineTouched (s : State.Of R) : List Nat :=
  match s.upos with
  | .single | .twld => []
  | .perm => if s.dp.r.i < s.dp.r.j then [s.dp.r.i, s.dp.r.j] else []
  | .bfly => [s.dp.r.hi, s.dp.r.lo]

/-- The elements of `target` that the micro-operation of the step touches. -/
def State.Of.touched (s : State.Of R) : List Nat :=
  match s.seq with
  | .idle | .gLcalc => []
  | .gChirp | .gCmod | .gBkern | .gPmul | .gWback => [s.dp.r.k]
  | .pPerm | .tPerm | .tStages | .gFfta | .gFftb | .gIffta => s.routineTouched

/-- What the micro-operation of a step inside BITREV or STAGES makes of the datapath; a turn of BITREV with J <= I has none. -/
def routineDp (nm : Num R) (s : State.Of R) : Except Fault (Datapath R) :=
  match s.upos with
  | .single => .ok s.dp
  | .perm => if s.dp.r.i < s.dp.r.j then swap nm s.dp.r.msel s.dp.r.i s.dp.r.j s.dp else .ok s.dp
  | .twld => twld nm s.dp
  | .bfly => bfly nm s.dp.r.msel s.dp.r.lo s.dp.r.hi s.dp

/-- What the micro-operation of a step makes of the datapath. -/
def microDp (nm : Num R) (s : State.Of R) : Except Fault (Datapath R) :=
  match s.seq with
  | .idle => .ok s.dp
  | .gLcalc => lcalc s.dp
  | .gChirp => chirpgen nm s.dp
  | .gCmod => cmod nm s.dp
  | .gBkern => bkern nm s.dp
  | .gPmul => pmul nm s.dp
  | .gWback => wback nm s.dp
  | .pPerm | .tPerm | .tStages | .gFfta | .gFftb | .gIffta => routineDp nm s

/-- `microOp` and `perform` together are `microDp`. -/
theorem perform_microOp (nm : Num R) (s : State.Of R) :
    (match microOp s with | some i => perform nm i s | none => .next s) = onDatapath (fun _ => microDp nm s) s := by
  have routine : (match routineOp s with | some i => perform nm i s | none => .next s) =
      onDatapath (fun _ => routineDp nm s) s := by
    unfold routineOp routineDp
    cases s.upos with
    | single => rfl
    | perm => by_cases h : s.dp.r.i < s.dp.r.j <;> simp only [h, if_true, if_false] <;> rfl
    | twld => rfl
    | bfly => rfl
  unfold microOp microDp
  cases s.seq
  case pPerm | tPerm | tStages | gFfta | gFftb | gIffta => exact routine
  all_goals rfl

/-- A step of the busy core: the micro-operation on the datapath, then the advance. -/
theorem coreStepBy_busy (nm : Num R) {s : State.Of R} (hb : s.busy = true) :
    coreStepBy (perform nm) s =
      match microDp nm s with
      | .ok d => .next (advance { s with dp := d })
      | .error e => .fault e := by
  have h := perform_microOp nm s
  unfold onDatapath at h
  cases hi : microOp s with
  | none =>
    rw [coreStepBy_none hb hi]
    cases hd : microDp nm s <;> simp only [hi, hd] at h
    · cases h
    · simp only [← Host.Outcome.next.inj h]
  | some i =>
    simp only [hi] at h
    simp only [coreStepBy, if_pos hb, hi, h]
    cases microDp nm s <;> rfl

/-- If the busy core steps, its micro-operation answered and it advanced. -/
theorem coreStepBy_next_iff {nm : Num R} {s t : State.Of R} (hb : s.busy = true) :
    coreStepBy (perform nm) s = .next t ↔ ∃ d, microDp nm s = .ok d ∧ t = advance { s with dp := d } := by
  rw [coreStepBy_busy nm hb]
  cases microDp nm s <;> simp [eq_comm]

/-- The datapath as LCALC leaves it in phase G_LCALC, and as it is in every other phase: LCALC is the one micro-operation that
writes an index register. -/
def State.Of.afterLcalc (s : State.Of R) : Datapath R :=
  match s.seq with
  | .gLcalc => s.dp.withRegs (fun r => { r with l := paddedLength r.n })
  | _ => s.dp

@[simp] theorem State.Of.afterLcalc_par (s : State.Of R) : s.afterLcalc.par = s.dp.par := by
  unfold State.Of.afterLcalc
  split <;> rfl
@[simp] theorem State.Of.afterLcalc_pfault (s : State.Of R) : s.afterLcalc.pfault = s.dp.pfault := by
  unfold State.Of.afterLcalc
  split <;> rfl
@[simp] theorem State.Of.afterLcalc_mem (s : State.Of R) (m : MemId) : s.afterLcalc.mem m = s.dp.mem m := by
  unfold State.Of.afterLcalc
  split
  · exact Datapath.withRegs_mem _ _ m
  · rfl
theorem State.Of.afterLcalc_of_eq {s : State.Of R} (h : s.seq = .gLcalc) :
    s.afterLcalc = s.dp.withRegs (fun r => { r with l := paddedLength r.n }) := by
  simp [State.Of.afterLcalc, h]
theorem State.Of.afterLcalc_of_ne {s : State.Of R} (h : s.seq ≠ .gLcalc) : s.afterLcalc = s.dp := by
  unfold State.Of.afterLcalc
  split
  · rename_i e; exact absurd e h
  · rfl

theorem routineDp_touches {nm : Num R} {s : State.Of R} {d : Datapath R} (h : routineDp nm s = .ok d) :
    Touches (memOf s.dp.r.msel) s.routineTouched s.dp d := by
  unfold routineDp at h
  unfold State.Of.routineTouched
  cases hu : s.upos <;> simp only [hu] at h ⊢
  case single => obtain rfl := Except.ok.inj h; exact .refl _ _
  case twld => exact twld_touches _ h
  case bfly => exact bfly_touches h
  case perm =>
    by_cases hij : s.dp.r.i < s.dp.r.j <;> simp only [hij, if_true, if_false] at h ⊢
    · exact swap_touches h
    · obtain rfl := Except.ok.inj h; exact .refl _ _

/-- All that the micro-operation of a step touches. -/
theorem microDp_touches {nm : Num R} {s : State.Of R} {d : Datapath R} (h : microDp nm s = .ok d) :
    Touches s.target s.touched s.afterLcalc d := by
  unfold microDp at h
  unfold State.Of.target State.Of.touched State.Of.afterLcalc
  cases hs : s.seq <;> simp only [hs] at h ⊢
  case idle => obtain rfl := Except.ok.inj h; exact .refl _ _
  case gLcalc => obtain rfl := Except.ok.inj h; exact .refl _ _
  case gChirp => exact chirpgen_touches h
  case gCmod => exact cmod_touches h
  case gBkern => exact bkern_touches h
  case gPmul => exact pmul_touches h
  case gWback => exact wback_touches h
  all_goals exact routineDp_touches h

end Sys2Proof.Machine
end

section
/-! A step of the sequencer keeps it where the spec has it (10_state.md R26, R27, R35; 41_permute.md R129; 42_pow2_transform.md
R143 to R145). -/

namespace Sys2Proof.Machine

variable {R : Type}

/-! ## What holds all through a routine, and at the end of a phase -/

/-- What holds all through a phase whose routine is BITREV, STAGES or FFT2, wherever in the routine the sequencer stands. -/
def State.Of.RoutineWf (s : State.Of R) : Prop :=
  match s.seq with
  | .pPerm => s.busy = true ∧ s.CommandWf ∧ s.dp.r.opc = 0#2 ∧ s.OnMem .dmem s.dp.r.n
  | .tPerm | .tStages =>
    s.busy = true ∧ s.CommandWf ∧ s.dp.r.opc = 1#2 ∧ s.OnMem .dmem s.dp.r.n ∧ s.dp.r.ss = s.dp.r.s
  | .gFfta => s.busy = true ∧ s.WorkWf ∧ s.OnMem .amem s.dp.r.l ∧ s.dp.r.ss = .neg
  | .gFftb => s.busy = true ∧ s.WorkWf ∧ s.OnMem .bmem s.dp.r.l ∧ s.dp.r.ss = .neg
  | .gIffta => s.busy = true ∧ s.WorkWf ∧ s.OnMem .amem s.dp.r.l ∧ s.dp.r.ss = .pos
  | .idle | .gLcalc | .gChirp | .gCmod | .gBkern | .gPmul | .gWback => False

/-- What holds when the routine of a phase has ended. -/
def State.Of.PhaseDone (s : State.Of R) : Prop :=
  match s.seq with
  | .idle => s.busy = false
  | .pPerm | .tPerm | .tStages | .gWback => True
  | .gLcalc => s.busy = true ∧ s.PaddedWf
  | .gChirp => s.busy = true ∧ s.ChirpWf
  | .gCmod => s.busy = true ∧ s.ChirpWf ∧ writtenBelow s.dp.amem s.dp.r.l
  | .gBkern | .gFfta | .gFftb | .gPmul | .gIffta => s.busy = true ∧ s.WorkWf

/-- What the micro-operation of the phase adds to `SeqWf`: L(N) in L, or its element written. -/
def State.Of.MicroDone (s : State.Of R) : Prop :=
  match s.seq with
  | .gLcalc => s.dp.r.l = paddedLength s.dp.r.n
  | .gChirp => (Mem.get s.dp.chtab s.dp.r.k).isSome = true
  | .gCmod => (Mem.get s.dp.amem s.dp.r.k).isSome = true
  | .gBkern => (Mem.get s.dp.bmem s.dp.r.k).isSome = true
  | .idle | .pPerm | .tPerm | .tStages | .gFfta | .gFftb | .gPmul | .gIffta | .gWback => True

theorem State.Of.RoutineWf.phaseDone {s : State.Of R} (h : s.RoutineWf) : s.PhaseDone := by
  unfold State.Of.RoutineWf at h
  unfold State.Of.PhaseDone
  cases hs : s.seq <;> simp only [hs] at h ⊢
  all_goals
    obtain ⟨hb, hw, -⟩ := h
    exact ⟨hb, hw⟩

theorem State.Of.RoutineWf.isPow2_nn {s : State.Of R} (h : s.RoutineWf) : isPow2 s.dp.r.nn = true := by
  have key : ∀ m n, s.OnMem m n → isPow2 s.dp.r.nn = true := fun m n ⟨_, hn, hp⟩ => hn ▸ hp
  unfold State.Of.RoutineWf at h
  cases hs : s.seq <;> simp only [hs] at h
  case pPerm =>
    obtain ⟨-, -, -, hm⟩ := h
    exact key _ _ hm
  case tPerm | tStages =>
    obtain ⟨-, -, -, hm, -⟩ := h
    exact key _ _ hm
  all_goals
    obtain ⟨-, -, hm, -⟩ := h
    exact key _ _ hm

/-- The sequencer at the test of a turn of BITREV. -/
theorem State.Of.RoutineWf.seqWf_of_perm {s : State.Of R} (h : s.RoutineWf) (hs : s.seq ≠ .tStages) (hu : s.upos = .perm)
    (hp : s.dp.r.PermWf) : s.SeqWf := by
  unfold State.Of.RoutineWf at h
  unfold State.Of.SeqWf
  cases hq : s.seq <;> simp only [hq] at h ⊢
  case pPerm =>
    obtain ⟨hb, hc, ho, hm⟩ := h
    exact ⟨hb, hc, ho, hm, hu, hp⟩
  case tPerm =>
    obtain ⟨hb, hc, ho, hm, hss⟩ := h
    exact ⟨hb, hc, ho, hm, hss, hu, hp⟩
  case tStages => exact absurd hq hs
  all_goals
    obtain ⟨hb, hw, hm, hss⟩ := h
    exact ⟨hb, hw, hm, hss, .inl ⟨hu, hp⟩⟩

/-- The sequencer inside STAGES. -/
theorem State.Of.RoutineWf.seqWf_of_stages {s : State.Of R} (h : s.RoutineWf) (h1 : s.seq ≠ .pPerm) (h2 : s.seq ≠ .tPerm)
    (hst : s.StagesWf) : s.SeqWf := by
  unfold State.Of.RoutineWf at h
  unfold State.Of.SeqWf
  cases hq : s.seq <;> simp only [hq] at h ⊢
  case pPerm => exact absurd hq h1
  case tPerm => exact absurd hq h2
  case tStages =>
    obtain ⟨hb, hc, ho, hm, hss⟩ := h
    exact ⟨hb, hc, ho, hm, hss, hst⟩
  all_goals
    obtain ⟨hb, hw, hm, hss⟩ := h
    exact ⟨hb, hw, hm, hss, .inr hst⟩

/-- In a routine the sequencer stands at a turn of BITREV or inside STAGES. -/
theorem State.Of.SeqWf.routine {s : State.Of R} (h : s.SeqWf) (hr : s.seq.isRoutine = true) :
    s.RoutineWf ∧ ((s.seq ≠ .tStages ∧ s.upos = .perm ∧ s.dp.r.PermWf) ∨
      (s.seq ≠ .pPerm ∧ s.seq ≠ .tPerm ∧ s.StagesWf)) := by
  unfold State.Of.SeqWf at h
  unfold State.Of.RoutineWf
  cases hs : s.seq <;> simp only [hs] at h ⊢
  case pPerm =>
    obtain ⟨hb, hc, ho, hm, hp⟩ := h
    exact ⟨⟨hb, hc, ho, hm⟩, .inl ⟨by decide, hp⟩⟩
  case tPerm =>
    obtain ⟨hb, hc, ho, hm, hss, hp⟩ := h
    exact ⟨⟨hb, hc, ho, hm, hss⟩, .inl ⟨by decide, hp⟩⟩
  case tStages =>
    obtain ⟨hb, hc, ho, hm, hss, hst⟩ := h
    exact ⟨⟨hb, hc, ho, hm, hss⟩, .inr ⟨by decide, by decide, hst⟩⟩
  case gFfta | gFftb | gIffta =>
    obtain ⟨hb, hw, hm, hss, hp | hst⟩ := h
    · exact ⟨⟨hb, hw, hm, hss⟩, .inl ⟨by decide, hp⟩⟩
    · exact ⟨⟨hb, hw, hm, hss⟩, .inr ⟨by decide, by decide, hst⟩⟩
  all_goals simp [hs, Phase.isRoutine] at hr

theorem State.Of.SeqWf.seq_of_idle {s : State.Of R} (h : s.SeqWf) (hb : s.busy = false) : s.seq = .idle := by
  unfold State.Of.SeqWf at h
  cases hs : s.seq <;> simp only [hs] at h
  case idle => rfl
  all_goals exact absurd h.1 (by simp [hb])

theorem State.Of.SeqWf.command {s : State.Of R} (h : s.SeqWf) (hb : s.busy = true) : s.CommandWf := by
  unfold State.Of.SeqWf at h
  cases hs : s.seq <;> simp only [hs] at h
  case idle => exact absurd hb (by simp [h])
  case pPerm | tPerm | tStages =>
    obtain ⟨-, hc, -⟩ := h
    exact hc
  case gLcalc =>
    obtain ⟨-, hc, -⟩ := h
    exact hc
  case gChirp =>
    obtain ⟨-, ⟨⟨hc, -⟩, -⟩, -⟩ := h
    exact hc
  case gCmod | gBkern =>
    obtain ⟨-, ⟨⟨⟨hc, -⟩, -⟩, -⟩, -⟩ := h
    exact hc
  all_goals
    obtain ⟨-, ⟨⟨⟨⟨hc, -⟩, -⟩, -⟩, -⟩, -⟩ := h
    exact hc

/-! ## The micro-operation -/

/-- `SeqWf` speaks of index registers and of written elements only: a change of Complex registers keeps it, and so does writing
more elements. -/
theorem State.Of.SeqWf.mono {s : State.Of R} {d : Datapath R} (h : s.SeqWf) (hpar : d.par = s.dp.par)
    (hr : sameIndexRegs s.dp.r d.r)
    (hmem : ∀ m k, (Mem.get (s.dp.mem m) k).isSome = true → (Mem.get (d.mem m) k).isSome = true) :
    State.Of.SeqWf { s with dp := d } := by
  obtain ⟨par, pf, dr, dm, am, bm, ch, r⟩ := d
  obtain rfl : par = s.dp.par := hpar
  obtain ⟨w, p, t, z, rfl⟩ : ∃ w p t z, r = { s.dp.r with w := w, p := p, t := t, z := z } := ⟨_, _, _, _, hr⟩
  have grow : ∀ (m : MemId) n, writtenBelow (s.dp.mem m) n →
      ∀ k, k < n → (Mem.get (Datapath.mem ⟨s.dp.par, pf, dr, dm, am, bm, ch, _⟩ m) k).isSome = true :=
    fun m n hw k hk => hmem m k (hw k hk)
  have work : s.WorkWf → State.Of.WorkWf
      { s with dp := ⟨s.dp.par, pf, dr, dm, am, bm, ch, { s.dp.r with w := w, p := p, t := t, z := z }⟩ } :=
    fun ⟨⟨hp, hc⟩, ha, hb⟩ => ⟨⟨hp, grow .chtab _ hc⟩, grow .amem _ ha, grow .bmem _ hb⟩
  unfold State.Of.SeqWf at h ⊢
  cases hs : s.seq <;> simp only [hs] at h ⊢
  case gChirp =>
    obtain ⟨hb, hp, hk, hc⟩ := h
    exact ⟨hb, hp, hk, grow .chtab _ hc⟩
  case gCmod =>
    obtain ⟨hb, ⟨hp, hc⟩, hk, ha⟩ := h
    exact ⟨hb, ⟨hp, grow .chtab _ hc⟩, hk, grow .amem _ ha⟩
  case gBkern =>
    obtain ⟨hb, ⟨hp, hc⟩, hk, ha, hb'⟩ := h
    exact ⟨hb, ⟨hp, grow .chtab _ hc⟩, hk, grow .amem _ ha, grow .bmem _ hb'⟩
  case gFfta | gFftb | gPmul | gIffta | gWback =>
    obtain ⟨hb, hw, hrest⟩ := h
    exact ⟨hb, work hw, hrest⟩
  all_goals exact h

/-- After the micro-operation the sequencer still stands where it stood, and the micro-operation has done its work. -/
theorem microDp_seqWf {nm : Num R} {s : State.Of R} {d : Datapath R} (h : s.SeqWf) (hd : microDp nm s = .ok d) :
    State.Of.SeqWf { s with dp := d } ∧ State.Of.MicroDone { s with dp := d } := by
  have ht := microDp_touches hd
  by_cases hs : s.seq = .gLcalc
  · obtain rfl : s.afterLcalc = d := by
      simp only [microDp, hs] at hd
      simpa [State.Of.afterLcalc, hs] using Except.ok.inj hd
    unfold State.Of.SeqWf at h
    simp only [hs] at h
    simp only [State.Of.SeqWf, State.Of.MicroDone, State.Of.afterLcalc, hs]
    exact ⟨h, rfl⟩
  · rw [State.Of.afterLcalc_of_ne hs] at ht
    refine ⟨h.mono ht.fixed.1 ht.regs ht.isSome_mono, ?_⟩
    have hk : d.r.k = s.dp.r.k := by rw [ht.regs]
    have hw := ht.written s.dp.r.k
    unfold State.Of.touched State.Of.target at hw
    unfold State.Of.MicroDone
    cases hq : s.seq <;> simp only [hq, hk] at hw ⊢
    case gLcalc => exact absurd hq hs
    case gChirp | gCmod | gBkern => exact hw (List.mem_singleton.2 rfl)

/-! ## The advance -/

theorem completeCommand_seqWf (s : State.Of R) : (completeCommand s).SeqWf := rfl

/-- The first turn of BITREV. -/
theorem permWf_start (m : MemSel) {n : Nat} (r : Regs R) (h : 0 < n) : (r.startPerm m n).PermWf := by
  simp [Regs.PermWf, h]

/-- A phase of XFORM_GEN whose routine is FFT2 begins. -/
theorem startFft_gen_seqWf {ph : Phase} {m : MemSel} {sg : Sign} {s : State.Of R}
    (hph : (ph, m, sg) = (.gFfta, .amem, .neg) ∨ (ph, m, sg) = (.gFftb, .bmem, .neg) ∨
      (ph, m, sg) = (.gIffta, .amem, .pos)) (hb : s.busy = true) (hw : s.WorkWf) :
    (startFft ph m s.dp.r.l sg s).SeqWf := by
  obtain ⟨⟨⟨-, hl⟩, -⟩, -⟩ := id hw
  have h2 : isPow2 s.dp.r.l = true := hl ▸ paddedLength_isPow2 _
  have hp := permWf_start m (s.dp.r.enterPow2 m s.dp.r.l sg) (isPow2_pos h2)
  rcases hph with h | h | h <;> cases h <;>
    exact ⟨hb, hw, ⟨rfl, rfl, h2⟩, rfl, .inl ⟨rfl, hp⟩⟩

/-- A finished phase hands over to the next one of the command, or the command is complete. -/
theorem endPhase_seqWf {s : State.Of R} (h : s.PhaseDone) : (endPhase s).SeqWf := by
  have below0 : ∀ m : Mem R, writtenBelow m 0 := fun m k hk => absurd hk (Nat.not_lt_zero k)
  have npos : s.PaddedWf → 0 < s.dp.r.n := fun ⟨⟨⟨_, _, _, h2, _⟩, _⟩, _⟩ => lt_of_lt_of_le two_pos h2
  have lpos : s.PaddedWf → 0 < s.dp.r.l := fun ⟨_, hl⟩ => hl ▸ isPow2_pos (paddedLength_isPow2 _)
  unfold State.Of.PhaseDone at h
  unfold endPhase
  cases hs : s.seq <;> simp only [hs] at h ⊢
  case idle => simp [State.Of.SeqWf, hs, h]
  case pPerm | tPerm | tStages | gWback => exact completeCommand_seqWf s
  case gLcalc =>
    obtain ⟨hb, hp⟩ := h
    exact ⟨hb, hp, npos hp, below0 _⟩
  case gChirp =>
    obtain ⟨hb, hp, hc⟩ := h
    exact ⟨hb, ⟨hp, hc⟩, lpos hp, below0 _⟩
  case gCmod =>
    obtain ⟨hb, ⟨hp, hc⟩, ha⟩ := h
    exact ⟨hb, ⟨hp, hc⟩, lpos hp, ha, below0 _⟩
  case gBkern =>
    obtain ⟨hb, hw⟩ := h
    exact startFft_gen_seqWf (.inl rfl) hb hw
  case gFfta =>
    obtain ⟨hb, hw⟩ := h
    exact startFft_gen_seqWf (.inr (.inl rfl)) hb hw
  case gFftb =>
    obtain ⟨hb, hw⟩ := h
    exact ⟨hb, hw, lpos hw.1.1⟩
  case gPmul =>
    obtain ⟨hb, hw⟩ := h
    exact startFft_gen_seqWf (.inr (.inr rfl)) hb hw
  case gIffta =>
    obtain ⟨hb, hw⟩ := h
    exact ⟨hb, hw, npos hw.1.1⟩

/-- R143, R145: at the test of the stage loop STEP is a power of two; a stage starts with group 0, or STAGES has ended. -/
theorem stageTest_seqWf {s : State.Of R} (h : s.RoutineWf) (h1 : s.seq ≠ .pPerm) (h2 : s.seq ≠ .tPerm)
    (hp : isPow2 s.dp.r.step = true) : (stageTest s).SeqWf := by
  by_cases hlt : s.dp.r.step < s.dp.r.nn
  · rw [stageTest_of_lt hlt]
    have h' : State.Of.RoutineWf { s.withRegs Regs.startStage with upos := .twld } := h
    exact h'.seqWf_of_stages h1 h2 (.inl ⟨rfl, hp, hlt, rfl, isPow2_pos hp⟩)
  · rw [stageTest_of_not_lt hlt]
    exact endPhase_seqWf h.phaseDone

theorem endPerm_seqWf {s : State.Of R} (h : s.RoutineWf) : (endPerm s).SeqWf := by
  unfold endPerm
  split
  · exact endPhase_seqWf h.phaseDone
  · rename_i hq
    refine stageTest_seqWf ?_ nofun nofun (by decide : isPow2 1 = true)
    simp only [State.Of.RoutineWf, hq] at h
    exact h
  · rename_i h1 h2
    have h' : (s.withRegs Regs.startStages).RoutineWf := h
    exact stageTest_seqWf h' h1 h2 (by decide : isPow2 1 = true)

/-- R129: the next turn of BITREV stands at the next position and its reversal. -/
theorem advancePerm_seqWf {s : State.Of R} (h : s.RoutineWf) (hs : s.seq ≠ .tStages) (hu : s.upos = .perm)
    (hp : s.dp.r.PermWf) : (advancePerm s).SeqWf := by
  have h' : (s.withRegs Regs.nextPerm).RoutineWf := h
  by_cases hlt : s.dp.r.i + 1 < s.dp.r.nn
  · rw [advancePerm_of_lt hlt]
    obtain ⟨k, hk⟩ := (isPow2_iff _).1 h.isPow2_nn
    refine h'.seqWf_of_perm hs hu ⟨hlt, ?_⟩
    simp only [State.Of.withRegs_dp, Datapath.withRegs_r, Regs.nextPerm_i, Regs.nextPerm_nn, Regs.nextPerm_j]
    rw [hp.2, hk, Nat.log2_two_pow]
    exact mirrorAdvance_rev (hk ▸ hlt)
  · rw [advancePerm_of_not_lt hlt]
    exact endPerm_seqWf h'

/-- R144: in a stage the higher index of a pair is below the length. -/
theorem Regs.PairWf.hi_lt {r : Regs R} (h : r.PairWf) (hn : isPow2 r.nn = true) : r.hi < r.nn := by
  obtain ⟨⟨hp, hlt, -, hg⟩, hlo, hmod, hhi⟩ := h
  obtain ⟨q, hq⟩ := two_mul_dvd_of_isPow2_lt hp hn hlt
  have hdiv := Nat.div_add_mod r.lo (2 * r.step)
  have hle : r.lo / (2 * r.step) + 1 ≤ q := Nat.div_lt_of_lt_mul (hq ▸ hlo)
  have := Nat.mul_le_mul_left (2 * r.step) hle
  rw [Nat.mul_add] at this
  omega

/-- R145: a group begins with the pair at LO = G. -/
theorem pairWf_start {r : Regs R} (h : r.GroupWf) : r.startGroup.startPair.PairWf := by
  obtain ⟨hp, hlt, hst, hg⟩ := h
  refine ⟨⟨hp, hlt, hst, hg⟩, ?_, ?_, rfl⟩
  · exact hg.trans hlt
  · exact Nat.mod_eq_of_lt (show r.g < 2 * r.step by omega)

theorem advanceGroup_seqWf {s : State.Of R} (h : s.RoutineWf) (h1 : s.seq ≠ .pPerm) (h2 : s.seq ≠ .tPerm)
    (hg : s.dp.r.GroupWf) : (advanceGroup s).SeqWf := by
  obtain ⟨hp, hlt, hst, -⟩ := hg
  by_cases hg' : s.dp.r.g + 1 < s.dp.r.step
  · rw [advanceGroup_of_lt hg']
    have h' : State.Of.RoutineWf { s.withRegs Regs.nextGroup with upos := .twld } := h
    exact h'.seqWf_of_stages h1 h2 (.inl ⟨rfl, hp, hlt, hst, hg'⟩)
  · rw [advanceGroup_of_not_lt hg']
    have h' : (s.withRegs fun r => r.nextGroup.nextStage).RoutineWf := h
    exact stageTest_seqWf h' h1 h2 (isPow2_two_mul hp)

theorem advanceBfly_seqWf {s : State.Of R} (h : s.RoutineWf) (h1 : s.seq ≠ .pPerm) (h2 : s.seq ≠ .tPerm)
    (hu : s.upos = .bfly) (hp : s.dp.r.PairWf) : (advanceBfly s).SeqWf := by
  obtain ⟨hg, -, hmod, -⟩ := hp
  by_cases hlt : s.dp.r.lo + 2 * s.dp.r.step < s.dp.r.nn
  · rw [advanceBfly_of_lt hlt]
    have h' : (s.withRegs fun r => r.nextPair.startPair).RoutineWf := h
    refine h'.seqWf_of_stages h1 h2 (.inr ⟨hu, hg, hlt, ?_, rfl⟩)
    exact (Nat.add_mod_right _ _).trans hmod
  · rw [advanceBfly_of_not_lt hlt]
    have h' : (s.withRegs Regs.nextPair).RoutineWf := h
    exact advanceGroup_seqWf h' h1 h2 hg

theorem advanceRoutine_seqWf {s : State.Of R} (h : s.SeqWf) (hr : s.seq.isRoutine = true) : (advanceRoutine s).SeqWf := by
  obtain ⟨hw, ⟨hs, hu, hp⟩ | ⟨h1, h2, ⟨hu, hg⟩ | ⟨hu, hp⟩⟩⟩ := h.routine hr <;> simp only [advanceRoutine, hu]
  · exact advancePerm_seqWf hw hs hu hp
  · have h' : (advanceTwld s).RoutineWf := hw
    exact h'.seqWf_of_stages h1 h2 (.inr ⟨rfl, pairWf_start hg⟩)
  · exact advanceBfly_seqWf hw h1 h2 hu hp

/-- One more element written: a loop over K keeps what it has written. -/
theorem writtenBelow_succ {m : Mem R} {k : Nat} (h : writtenBelow m k) (hk : (Mem.get m k).isSome = true) :
    writtenBelow m (k + 1) := by
  intro j hj
  rcases Nat.lt_succ_iff_lt_or_eq.1 hj with hlt | rfl
  · exact h j hlt
  · exact hk

theorem writtenBelow_mono {m : Mem R} {k n : Nat} (h : writtenBelow m k) (hn : n ≤ k) : writtenBelow m n :=
  fun j hj => h j (hj.trans_le hn)

/-- The end of a turn of a loop over K: the loop goes on, or its phase is done. -/
theorem advanceK_seqWf {count : Nat} {s : State.Of R}
    (hgo : s.dp.r.k + 1 < count → (s.withRegs Regs.nextK).SeqWf)
    (hend : count ≤ s.dp.r.k + 1 → (s.withRegs Regs.nextK).PhaseDone) : (advanceK count s).SeqWf := by
  by_cases h : s.dp.r.k + 1 < count
  · rw [advanceK_of_lt h]
    exact hgo h
  · rw [advanceK_of_not_lt h]
    exact endPhase_seqWf (hend (Nat.le_of_not_lt h))

/-- The advance keeps the sequencer where the spec has it. -/
theorem advancePhase_seqWf {s : State.Of R} (h : s.SeqWf) (hm : s.MicroDone) : (advancePhase s).SeqWf := by
  by_cases hr : s.seq.isRoutine = true
  · rw [advancePhase_of_routine hr]
    exact advanceRoutine_seqWf h hr
  · unfold State.Of.SeqWf at h
    unfold State.Of.MicroDone at hm
    unfold advancePhase
    cases hs : s.seq <;> simp only [hs] at h hm hr ⊢
    case idle => simp [State.Of.SeqWf, hs, h]
    case gLcalc =>
      exact endPhase_seqWf (by simp only [State.Of.PhaseDone, hs]; exact ⟨h.1, h.2, hm⟩)
    case gChirp =>
      obtain ⟨hb, hp, -, hw⟩ := h
      have hw' := writtenBelow_succ hw hm
      refine advanceK_seqWf (fun hk => ?_) (fun hk => ?_)
      · simp only [State.Of.SeqWf, State.Of.withRegs_seq, hs]; exact ⟨hb, hp, hk, hw'⟩
      · simp only [State.Of.PhaseDone, State.Of.withRegs_seq, hs]; exact ⟨hb, hp, writtenBelow_mono hw' hk⟩
    case gCmod =>
      obtain ⟨hb, hp, -, hw⟩ := h
      have hw' := writtenBelow_succ hw hm
      refine advanceK_seqWf (fun hk => ?_) (fun hk => ?_)
      · simp only [State.Of.SeqWf, State.Of.withRegs_seq, hs]; exact ⟨hb, hp, hk, hw'⟩
      · simp only [State.Of.PhaseDone, State.Of.withRegs_seq, hs]; exact ⟨hb, hp, writtenBelow_mono hw' hk⟩
    case gBkern =>
      obtain ⟨hb, hp, -, ha, hw⟩ := h
      have hw' := writtenBelow_succ hw hm
      refine advanceK_seqWf (fun hk => ?_) (fun hk => ?_)
      · simp only [State.Of.SeqWf, State.Of.withRegs_seq, hs]; exact ⟨hb, hp, hk, ha, hw'⟩
      · simp only [State.Of.PhaseDone, State.Of.withRegs_seq, hs]; exact ⟨hb, hp, ha, writtenBelow_mono hw' hk⟩
    case gPmul =>
      refine advanceK_seqWf (fun hk => ?_) (fun hk => ?_)
      · simp only [State.Of.SeqWf, State.Of.withRegs_seq, hs]; exact ⟨h.1, h.2.1, hk⟩
      · simp only [State.Of.PhaseDone, State.Of.withRegs_seq, hs]; exact ⟨h.1, h.2.1⟩
    case gWback =>
      refine advanceK_seqWf (fun hk => ?_) (fun hk => ?_)
      · simp only [State.Of.SeqWf, State.Of.withRegs_seq, hs]; exact ⟨h.1, h.2.1, hk⟩
      · simp only [State.Of.PhaseDone, State.Of.withRegs_seq, hs]
    all_goals exact absurd rfl hr

theorem redraw_seqWf {s : State.Of R} (h : s.SeqWf) : (redraw s).SeqWf := by
  rcases redraw_cases s with hr | hr <;> rw [hr] <;> exact h

/-- A step of the sequencer keeps it where the spec has it. -/
theorem coreStepBy_seqWf {nm : Num R} {s t : State.Of R} (h : s.SeqWf) (ht : coreStepBy (perform nm) s = .next t) :
    t.SeqWf := by
  cases hb : s.busy with
  | false =>
    rw [coreStepBy_idle hb] at ht
    exact Host.Outcome.next.inj ht ▸ h
  | true =>
    obtain ⟨d, hd, rfl⟩ := (coreStepBy_next_iff hb).1 ht
    obtain ⟨h1, h2⟩ := microDp_seqWf h hd
    exact redraw_seqWf (advancePhase_seqWf h1 h2)

end Sys2Proof.Machine
end

section
/-! What a move of the host can do, and so a step of the machine (60_exceptions.md R210, log 10). -/

namespace Sys2Proof.Machine

variable {R : Type}

/-- All that the move `m`, made at `s`, can make of `s`. -/
inductive MoveEffect (nm : Num R) (m : HostMove R) (s : State.Of R) : State.Of R → Prop
  /-- a read that draws no free value, WAIT, or an ignored write of STATUS -/
  | answer (x : HostData R) : MoveEffect nm m s { s with rdata := x }
  /-- a read of an element -/
  | element (x : HostData R) : s.busy = false → MoveEffect nm m s { redraw s with rdata := x }
  /-- an access while BUSY = 1 (R206) -/
  | fault (x : HostData R) : s.busy = true → m ≠ .wait → m ≠ .tick → m ≠ .reset →
      MoveEffect nm m s { protocolFault s with rdata := x }
  /-- a write of an element -/
  | write (k : Nat) (v : Cplx R) (d : Datapath R) : s.busy = false → memWrite .dmem k v s.dp = .ok d →
      MoveEffect nm m s { s with dp := d }
  /-- a legal command (R197) -/
  | command (w : Word) : s.Ready → opField w ≠ 3 → MoveEffect nm m s (checkCommand (beginCommand w s))
  /-- an illegal word (R198) -/
  | illegal (w : Word) : s.Ready → MoveEffect nm m s (errorCompletion .illegal (beginCommand w s))
  | tick (t : State.Of R) : coreStepBy (perform nm) s = .next t → MoveEffect nm m s t
  | reset : m = .reset → MoveEffect nm m s (applyReset nm s)

section Moves

variable {nm : Num R} {cf : Setup R} {m : HostMove R} {s t : State.Of R}

theorem MoveEffect.of_hostWrite {k : Nat} {v : Cplx R} (hw : m ≠ .wait) (ht : m ≠ .tick) (hr : m ≠ .reset)
    (h : hostWrite k v s = .next t) : MoveEffect nm m s t := by
  unfold hostWrite at h
  split at h
  · cases h
  · split at h
    · obtain rfl := Host.Outcome.next.inj h
      exact .fault s.rdata ‹_› hw ht hr
    · obtain ⟨d, hd, rfl⟩ := onDatapath_next_iff.1 h
      exact .write k v d (Bool.eq_false_iff.2 ‹_›) hd

theorem MoveEffect.of_hostRead {b : Bool} {k : Nat} (hw : m ≠ .wait) (ht : m ≠ .tick) (hr : m ≠ .reset)
    (h : hostRead cf b k s = .next t) : MoveEffect nm m s t := by
  unfold hostRead at h
  split at h
  · cases h
  · split at h
    · obtain rfl := Host.Outcome.next.inj h
      exact .fault _ ‹_› hw ht hr
    · split at h
      · obtain rfl := Host.Outcome.next.inj h
        exact .element _ (Bool.eq_false_iff.2 ‹_›)
      · cases h

theorem MoveEffect.of_readRegister {b : Bool} {r : Nat} (h : readRegister b r s = .next t) : MoveEffect nm m s t := by
  unfold readRegister at h
  split at h
  · obtain rfl := Host.Outcome.next.inj h
    exact .answer _
  · split at h
    · obtain rfl := Host.Outcome.next.inj h
      exact .answer _
    · cases h

theorem MoveEffect.of_issueCommand {w : Word} {rest : State.Of R → State.Of R} (hw : m ≠ .wait) (ht : m ≠ .tick)
    (hr : m ≠ .reset) (hrest : s.Ready → MoveEffect nm m s (rest (beginCommand w s)))
    (h : issueCommand w rest s = .next t) : MoveEffect nm m s t := by
  rcases issueCommand_cases w rest s with ⟨-, e⟩ | ⟨-, hb, e⟩ | ⟨hp, hb, e⟩ <;> rw [e] at h
  · cases h
  · obtain rfl := Host.Outcome.next.inj h
    exact .fault s.rdata hb hw ht hr
  · obtain rfl := Host.Outcome.next.inj h
    exact hrest ⟨hb, hp⟩

theorem MoveEffect.of_registerWrite {r : Nat} {w : Word} (hw : m ≠ .wait) (ht : m ≠ .tick) (hr : m ≠ .reset)
    (h : registerWriteBy (perform nm) r w s = .next t) : MoveEffect nm m s t := by
  unfold registerWriteBy writeOtherRegister at h
  split at h
  · rcases commandWriteBy_eq_issue nm w with ⟨h3, e⟩ | e <;> rw [e s] at h
    · exact .of_issueCommand hw ht hr (fun hs => .command w hs h3) h
    · exact .of_issueCommand hw ht hr (fun hs => .illegal w hs) h
  · split at h
    · obtain rfl := Host.Outcome.next.inj h
      exact .answer s.rdata
    · cases h

theorem hostMoveBy_effect (h : hostMoveBy (perform cf.num) cf m s = .next t) : MoveEffect cf.num m s t := by
  cases m with
  | hwrite k v => exact .of_hostWrite nofun nofun nofun h
  | hread k => exact .of_hostRead nofun nofun nofun h
  | regWrite r w => exact .of_registerWrite nofun nofun nofun h
  | regRead r => exact .of_readRegister h
  | busWrite a bs =>
    simp only [hostMoveBy] at h
    split at h
    · exact .of_registerWrite nofun nofun nofun h
    · exact .of_hostWrite nofun nofun nofun h
    · cases h
    · cases h
  | busRead a len =>
    simp only [hostMoveBy, busRead] at h
    split at h
    · exact .of_readRegister h
    · exact .of_hostRead nofun nofun nofun h
    · cases h
  | wait => obtain rfl := Host.Outcome.next.inj h; exact .answer _
  | tick => exact .tick t h
  | reset => obtain rfl := Host.Outcome.next.inj h; exact .reset rfl

/-- All that a step can do: a step of the sequencer, or what the next move of the host does. -/
theorem stepBy_cases (h : stepBy (perform cf.num) cf s = .next t) :
    coreStepBy (perform cf.num) s = .next t ∨
      ∃ m rest, s.script = m :: rest ∧ MoveEffect cf.num m { s with script := rest } t := by
  unfold stepBy at h
  split at h
  · exact .inl h
  · split at h
    · exact .inl h
    · exact .inr ⟨_, _, ‹_›, hostMoveBy_effect h⟩

end Moves

/-- What a step of the sequencer leaves of PFAULT, the mark of a faulty run, the parameters, the latched word and the host's
fields. -/
theorem coreStepBy_frame {nm : Num R} {s t : State.Of R} (h : coreStepBy (perform nm) s = .next t) :
    t.dp.pfault = s.dp.pfault ∧ t.faulty = s.faulty ∧ t.dp.par = s.dp.par ∧ t.cmdl = s.cmdl ∧ t.script = s.script := by
  cases hb : s.busy with
  | false =>
    rw [coreStepBy_idle hb] at h
    obtain rfl := Host.Outcome.next.inj h
    exact ⟨rfl, rfl, rfl, rfl, rfl⟩
  | true =>
    obtain ⟨d, hd, rfl⟩ := (coreStepBy_next_iff hb).1 h
    obtain ⟨hpar, hpf, -⟩ := (microDp_touches hd).fixed
    rw [s.afterLcalc_par] at hpar
    rw [s.afterLcalc_pfault] at hpf
    simp [hpar, hpf]

/-! ## Acceptance (60_exceptions.md R197) -/

/-- The registers of the command latched and BUSY set (60_exceptions.md R197 step 8). -/
def State.Of.latched (s : State.Of R) : State.Of R :=
  { s.withRegs (fun r =>
      { r with opc := BitVec.ofNat 2 (opField s.cmdl), n := lenField s.cmdl, s := signOf (invField s.cmdl) })
    with busy := true }

section Accept

variable {s : State.Of R}

theorem acceptCommand_permute (h : BitVec.ofNat 2 (opField s.cmdl) = 0#2) :
    acceptCommand s = startPerm .pPerm .dmem (lenField s.cmdl) s.latched := if_pos h

theorem acceptCommand_pow2 (h : BitVec.ofNat 2 (opField s.cmdl) = 1#2) :
    acceptCommand s = startFft .tPerm .dmem (lenField s.cmdl) (signOf (invField s.cmdl)) s.latched :=
  (if_neg (show ¬ BitVec.ofNat 2 (opField s.cmdl) = 0#2 by rw [h]; decide)).trans (if_pos h)

theorem acceptCommand_gen (h0 : BitVec.ofNat 2 (opField s.cmdl) ≠ 0#2) (h1 : BitVec.ofNat 2 (opField s.cmdl) ≠ 1#2) :
    acceptCommand s = { s.latched with seq := .gLcalc, upos := .single } := (if_neg h0).trans (if_neg h1)

end Accept

/-- What acceptance leaves unchanged. -/
theorem acceptCommand_frame (s : State.Of R) :
    sameFixed s.dp (acceptCommand s).dp ∧ (∀ m, (acceptCommand s).dp.mem m = s.dp.mem m) ∧
      (acceptCommand s).faulty = s.faulty ∧ (acceptCommand s).script = s.script ∧ (acceptCommand s).cmdl = s.cmdl := by
  by_cases h0 : BitVec.ofNat 2 (opField s.cmdl) = 0#2
  · rw [acceptCommand_permute h0]
    exact ⟨⟨rfl, rfl, rfl⟩, fun m => by cases m <;> rfl, rfl, rfl, rfl⟩
  · by_cases h1 : BitVec.ofNat 2 (opField s.cmdl) = 1#2
    · rw [acceptCommand_pow2 h1]
      exact ⟨⟨rfl, rfl, rfl⟩, fun m => by cases m <;> rfl, rfl, rfl, rfl⟩
    · rw [acceptCommand_gen h0 h1]
      exact ⟨⟨rfl, rfl, rfl⟩, fun m => by cases m <;> rfl, rfl, rfl, rfl⟩

/-- What steps 5 to 8 of R197 leave unchanged. -/
theorem checkCommand_frame (s : State.Of R) :
    sameFixed s.dp (checkCommand s).dp ∧ (∀ m, (checkCommand s).dp.mem m = s.dp.mem m) ∧
      (checkCommand s).faulty = s.faulty ∧ (checkCommand s).script = s.script ∧ (checkCommand s).cmdl = s.cmdl := by
  rcases checkCommand_cases s with ⟨-, e⟩ | ⟨-, -, -, e⟩ | ⟨-, -, -, e⟩ | ⟨-, -, -, -, e⟩ <;> rw [e]
  case inr.inr.inr => exact acceptCommand_frame s
  all_goals exact ⟨⟨rfl, rfl, rfl⟩, fun _ => rfl, rfl, rfl, rfl⟩

/-- The STATUS bits of a command that is accepted. -/
theorem acceptCommand_status (s : State.Of R) :
    (acceptCommand s).busy = true ∧ (acceptCommand s).done = s.done ∧ (acceptCommand s).err = s.err ∧
      (acceptCommand s).ecode = s.ecode := by
  by_cases h0 : BitVec.ofNat 2 (opField s.cmdl) = 0#2
  · rw [acceptCommand_permute h0]
    exact ⟨rfl, rfl, rfl, rfl⟩
  · by_cases h1 : BitVec.ofNat 2 (opField s.cmdl) = 1#2
    · rw [acceptCommand_pow2 h1]
      exact ⟨rfl, rfl, rfl, rfl⟩
    · rw [acceptCommand_gen h0 h1]
      exact ⟨rfl, rfl, rfl, rfl⟩

/-- R197 step 8, 10_state.md R27: a command that passes the checks starts in the first phase of its opcode. -/
theorem acceptCommand_seqWf {s : State.Of R} (h3 : opField s.cmdl ≠ 3) (h2 : 2 ≤ lenField s.cmdl)
    (hpow : opField s.cmdl = 2 ∨ isPow2 (lenField s.cmdl) = true) (hn : lenField s.cmdl ≤ s.dp.par.nmax)
    (hl : opField s.cmdl = 2 → paddedLength (lenField s.cmdl) ≤ s.dp.par.lmax) : (acceptCommand s).SeqWf := by
  have hop : ∀ j, j < 4 → (BitVec.ofNat 2 (opField s.cmdl) = BitVec.ofNat 2 j ↔ opField s.cmdl = j) := fun j hj => by
    rw [← BitVec.toNat_inj, BitVec.toNat_ofNat, BitVec.toNat_ofNat, Nat.mod_eq_of_lt (opField_lt _), Nat.mod_eq_of_lt hj]
  have hpos : 0 < lenField s.cmdl := by omega
  by_cases h0 : BitVec.ofNat 2 (opField s.cmdl) = 0#2
  · rw [acceptCommand_permute h0]
    have h0' := (hop 0 (by decide)).1 h0
    exact ⟨rfl, ⟨rfl, rfl, rfl, h2, hn⟩, h0, ⟨rfl, rfl, hpow.resolve_left (by omega)⟩, rfl, permWf_start _ _ hpos⟩
  · by_cases h1 : BitVec.ofNat 2 (opField s.cmdl) = 1#2
    · rw [acceptCommand_pow2 h1]
      have h1' := (hop 1 (by decide)).1 h1
      exact ⟨rfl, ⟨rfl, rfl, rfl, h2, hn⟩, h1, ⟨rfl, rfl, hpow.resolve_left (by omega)⟩, rfl, rfl,
        permWf_start _ _ hpos⟩
    · rw [acceptCommand_gen h0 h1]
      have h0' : opField s.cmdl ≠ 0 := mt (hop 0 (by decide)).2 h0
      have h1' : opField s.cmdl ≠ 1 := mt (hop 1 (by decide)).2 h1
      have h2' : opField s.cmdl = 2 := by have := opField_lt s.cmdl; omega
      exact ⟨rfl, ⟨rfl, rfl, rfl, h2, hn⟩, (hop 2 (by decide)).2 h2', hl h2'⟩

/-- Steps 5 to 8 of R197 leave the sequencer where the spec has it. -/
theorem checkCommand_seqWf {s : State.Of R} (h3 : opField s.cmdl ≠ 3) (hs : s.SeqWf) : (checkCommand s).SeqWf := by
  rcases checkCommand_cases s with ⟨-, e⟩ | ⟨-, -, -, e⟩ | ⟨-, -, -, e⟩ | ⟨h2, hp, hn, hl, e⟩ <;> rw [e]
  · exact completeCommand_seqWf s
  · exact hs
  · exact hs
  · exact acceptCommand_seqWf h3 h2 hp hn hl

/-- Steps 5 to 8 of R197 leave STATUS legal, from the STATUS of a command just latched. -/
theorem checkCommand_statusWf {s : State.Of R} (hb : s.busy = false) (hd : s.done = false) (he : s.err = false)
    (hc : s.ecode = 0#4) : (checkCommand s).StatusWf := by
  rcases checkCommand_cases s with ⟨-, e⟩ | ⟨-, -, -, e⟩ | ⟨-, -, -, e⟩ | ⟨-, -, -, -, e⟩ <;> rw [e]
  · simp [State.Of.StatusWf, he, hc]
  · simp [State.Of.StatusWf, hb, hd, ErrCode.code]
  · simp [State.Of.StatusWf, hb, hd, ErrCode.code]
  · obtain ⟨hb', hd', he', hc'⟩ := acceptCommand_status s
    simp [State.Of.StatusWf, hb', hd', he', hc', hd, he, hc]

end Sys2Proof.Machine
end

section
/-! The invariant of the machine (10_state.md R22, R26, R27, R35, R39) and the safety statements of the family. -/

namespace Sys2Proof.Machine

variable {R : Type}

/-! ## The parts of the invariant -/

theorem memsWf_iff {d : Datapath R} : d.MemsWf ↔ ∀ m, Mem.wf (d.size m) (d.mem m) = true := by
  constructor
  · rintro ⟨h1, h2, h3, h4⟩ m
    cases m with
    | dmem => exact h1
    | amem => exact h2
    | bmem => exact h3
    | chtab => exact h4
  · intro h
    exact ⟨h .dmem, h .amem, h .bmem, h .chtab⟩

/-- `MemsWf` depends on the capacities and the memories only. -/
theorem memsWf_congr {d d' : Datapath R} (hpar : d'.par = d.par) (hmem : ∀ m, d'.mem m = d.mem m) (h : d.MemsWf) :
    d'.MemsWf := by
  rw [memsWf_iff] at h ⊢
  intro m
  have hsize : d'.size m = d.size m := by cases m <;> simp [Datapath.size, hpar]
  rw [hsize, hmem]
  exact h m

theorem coreStepBy_memsWf {nm : Num R} {s t : State.Of R} (h : s.dp.MemsWf)
    (ht : coreStepBy (perform nm) s = .next t) : t.dp.MemsWf := by
  cases hb : s.busy with
  | false =>
    rw [coreStepBy_idle hb] at ht
    exact Host.Outcome.next.inj ht ▸ h
  | true =>
    obtain ⟨d, hd, rfl⟩ := (coreStepBy_next_iff hb).1 ht
    have hl : s.afterLcalc.MemsWf := memsWf_congr s.afterLcalc_par s.afterLcalc_mem h
    have hd' : d.MemsWf := memsWf_iff.2 fun m => (microDp_touches hd).wf m (memsWf_iff.1 hl m)
    exact memsWf_congr (by simp) (by simp) hd'

/-- A step of the sequencer keeps STATUS legal: while BUSY = 1 neither DONE nor ERR is set, and completion exchanges BUSY for
DONE. -/
theorem coreStepBy_statusWf {nm : Num R} {s t : State.Of R} (h : s.StatusWf)
    (ht : coreStepBy (perform nm) s = .next t) : t.StatusWf := by
  cases hb : s.busy with
  | false =>
    rw [coreStepBy_idle hb] at ht
    exact Host.Outcome.next.inj ht ▸ h
  | true =>
    obtain ⟨d, -, rfl⟩ := (coreStepBy_next_iff hb).1 ht
    obtain ⟨h1, h2, -, h4, h5⟩ := h
    have hd : s.done = false := by simpa [hb] using h1
    have he : s.err = false := by simpa [hb] using h2
    have ee : (advance { s with dp := d }).err = false := (advance_err _).trans he
    have ec : (advance { s with dp := d }).ecode = s.ecode := advance_ecode _
    rw [he] at h4
    rcases advance_busy_done { s with dp := d } with ⟨e1, e2⟩ | ⟨e1, e2⟩
    · rw [State.Of.StatusWf, e1, e2, ee, ec, hd]
      exact ⟨Bool.and_false _, Bool.and_false _, rfl, h4, h5⟩
    · rw [State.Of.StatusWf, e1, e2, ee, ec]
      exact ⟨rfl, rfl, rfl, h4, h5⟩

theorem coreStepBy_inv {nm : Num F64} {s t : State} (h : s.Inv) (ht : coreStepBy (perform nm) s = .next t) : t.Inv := by
  obtain ⟨hpar, hmem, hst, hseq, hmark⟩ := h
  obtain ⟨epf, efa, epar, -, -⟩ := coreStepBy_frame ht
  refine ⟨epar ▸ hpar, coreStepBy_memsWf hmem ht, coreStepBy_statusWf hst ht, coreStepBy_seqWf hseq ht, ?_⟩
  rw [State.Of.MarkWf, epf, efa]
  exact hmark

/-- While BUSY = 0 the sequencer's part of the invariant says that SEQ is IDLE. -/
theorem seqWf_of_idle {s : State.Of R} (hs : s.seq = .idle) (hb : s.busy = false) : s.SeqWf := by
  simp [State.Of.SeqWf, hs, hb]

/-- Every move of the host keeps the invariant. -/
theorem MoveEffect.inv {nm : Num F64} {m : HostMove F64} {s t : State} (h : s.Inv) (hm : MoveEffect nm m s t) :
    t.Inv := by
  obtain ⟨hpar, hmem, hst, hseq, hmark⟩ := h
  cases hm with
  | answer x => exact ⟨hpar, hmem, hst, hseq, hmark⟩
  | element x hb =>
    rcases redraw_cases s with hr | hr <;> rw [hr] <;> exact ⟨hpar, hmem, hst, hseq, hmark⟩
  | fault x hb _ _ _ => exact ⟨hpar, hmem, hst, hseq, fun _ => rfl⟩
  | write k v d hb hd =>
    have ht := Touches.of_memWrite hd
    refine ⟨ht.fixed.1 ▸ hpar, memsWf_iff.2 fun m => ht.wf m (memsWf_iff.1 hmem m), hst,
      seqWf_of_idle (hseq.seq_of_idle hb) hb, ?_⟩
    rw [State.Of.MarkWf, ht.fixed.2.1]
    exact hmark
  | command w hs h3 =>
    obtain ⟨⟨epar, epf, -⟩, emem, efa, -, -⟩ := checkCommand_frame (beginCommand w s)
    refine ⟨epar ▸ hpar, memsWf_congr epar emem hmem, checkCommand_statusWf hs.1 rfl rfl rfl, ?_, ?_⟩
    · exact checkCommand_seqWf h3 (seqWf_of_idle (hseq.seq_of_idle hs.1) hs.1)
    · rw [State.Of.MarkWf, epf, efa]
      exact hmark
  | illegal w hs =>
    refine ⟨hpar, hmem, ?_, seqWf_of_idle (hseq.seq_of_idle hs.1) hs.1, hmark⟩
    simp [State.Of.StatusWf, hs.1, ErrCode.code]
  | tick t ht => exact coreStepBy_inv ⟨hpar, hmem, hst, hseq, hmark⟩ ht
  | reset _ =>
    exact ⟨hpar, ⟨rfl, rfl, rfl, rfl⟩, by simp [State.Of.StatusWf], rfl, nofun⟩

/-- Settles O55: by the parts of the invariant, for a step of the sequencer and for every move of the host. -/
theorem stepKeepsInvariant : Obligations.StepKeepsInvariant := by
  intro s t h ht
  rw [step_eq] at ht
  rcases stepBy_cases (cf := setupB64) ht with hc | ⟨m, rest, -, hm⟩
  · exact coreStepBy_inv h hc
  · exact MoveEffect.inv (s := { s with script := rest }) h hm

/-- Settles O54: every memory is empty, the core is idle, and the parameters are those of log 1. -/
theorem invariantAtReset : Obligations.InvariantAtReset :=
  ⟨by decide, by decide, by decide, rfl, nofun⟩

/-! ## PFAULT and the mark of a faulty run -/

/-- Settles O52: of the moves of the host only the accesses of a busy core set PFAULT, and with it the mark; only reset clears
PFAULT. -/
theorem protocolFaultIsSticky : Obligations.ProtocolFaultIsSticky := by
  intro s t ht
  rw [step_eq] at ht
  have same : t.dp.pfault = s.dp.pfault → t.faulty = s.faulty →
      (s.dp.pfault = true → t.dp.pfault = false → ∃ rest, s.script = .reset :: rest) ∧
      (s.dp.pfault = false → t.dp.pfault = true → s.busy = true ∧ ∃ m rest, s.script = m :: rest ∧
        m ≠ .wait ∧ m ≠ .tick ∧ m ≠ .reset) ∧
      (s.faulty = true → t.faulty = true) ∧ (s.faulty = false → t.faulty = true → t.dp.pfault = true) := by
    intro hp hf
    rw [hp, hf]
    refine ⟨fun h h' => ?_, fun h h' => ?_, id, fun h h' => ?_⟩ <;> rw [h] at h' <;> cases h'
  rcases stepBy_cases (cf := setupB64) ht with hc | ⟨m, rest, hs, hm⟩
  · obtain ⟨hp, hf, -⟩ := coreStepBy_frame hc
    exact same hp hf
  · cases hm with
    | answer x => exact same rfl rfl
    | element x hb => exact same (redraw_pfault _) (redraw_faulty _)
    | fault x hb hw htk hr =>
      exact ⟨fun _ h => (nomatch h), fun _ _ => ⟨hb, m, rest, hs, hw, htk, hr⟩, fun _ => rfl, fun _ _ => rfl⟩
    | write k v d hb hd => exact same (Touches.of_memWrite hd).fixed.2.1 rfl
    | command w hrd h3 =>
      obtain ⟨⟨-, hp, -⟩, -, hf, -⟩ := checkCommand_frame (beginCommand w { s with script := rest })
      exact same hp hf
    | illegal w hrd => exact same rfl rfl
    | tick t hc =>
      obtain ⟨hp, hf, -⟩ := coreStepBy_frame hc
      exact same hp hf
    | reset hr =>
      refine ⟨fun _ _ => ⟨rest, hr ▸ hs⟩, fun _ h => (nomatch h), id, fun h h' => ?_⟩
      exact absurd (h.symm.trans h') nofun

/-! ## The elements the sequencer writes -/

/-- R58: inside a routine the micro-operation touches elements below its length. -/
theorem State.Of.SeqWf.routineTouched_lt {s : State.Of R} (h : s.SeqWf) (hr : s.seq.isRoutine = true) :
    ∀ k ∈ s.routineTouched, k < s.dp.r.nn := by
  intro k hk
  unfold State.Of.routineTouched at hk
  obtain ⟨hw, ⟨-, hu, hi, hj⟩ | ⟨-, -, ⟨hu, -⟩ | ⟨hu, hp⟩⟩⟩ := h.routine hr <;> simp only [hu] at hk
  · have hjlt : s.dp.r.j < s.dp.r.nn := by
      obtain ⟨q, hq⟩ := (isPow2_iff _).1 hw.isPow2_nn
      rw [hj, hq, Nat.log2_two_pow]
      exact revBits_lt q _
    split at hk
    · rcases List.mem_pair.1 hk with rfl | rfl
      · exact hi
      · exact hjlt
    · cases hk
  · cases hk
  · rcases List.mem_pair.1 hk with rfl | rfl
    · exact hp.hi_lt hw.isPow2_nn
    · exact hp.2.1

/-- R29: where the micro-operation writes DMEM it writes elements below N. -/
theorem State.Of.SeqWf.touched_lt {s : State.Of R} (h : s.SeqWf) (ht : s.target = .dmem) :
    ∀ k ∈ s.touched, k < s.dp.r.n := by
  by_cases hr : s.seq.isRoutine = true
  · have hlt := h.routineTouched_lt hr
    have hw := (h.routine hr).1
    unfold State.Of.RoutineWf at hw
    unfold State.Of.target at ht
    unfold State.Of.touched
    cases hs : s.seq <;> simp only [hs] at hw ht hr ⊢
    case pPerm =>
      obtain ⟨-, -, -, -, hnn, -⟩ := hw
      exact hnn ▸ hlt
    case tPerm | tStages =>
      obtain ⟨-, -, -, ⟨-, hnn, -⟩, -⟩ := hw
      exact hnn ▸ hlt
    case gFfta | gFftb | gIffta =>
      obtain ⟨-, -, ⟨hm, -⟩, -⟩ := hw
      rw [hm] at ht
      cases ht
  · unfold State.Of.SeqWf at h
    unfold State.Of.target at ht
    unfold State.Of.touched
    cases hs : s.seq <;> simp only [hs] at h ht hr ⊢
    case idle | gLcalc => exact nofun
    case gWback => exact fun k hk => List.mem_singleton.1 hk ▸ h.2.2
    case gChirp | gCmod | gBkern | gPmul => cases ht
    all_goals exact absurd rfl hr

/-- R180: while XFORM_GEN runs only write-back writes DMEM. -/
theorem State.Of.SeqWf.target_of_gen {s : State.Of R} (h : s.SeqWf) (hb : s.busy = true) (hop : s.dp.r.opc = 2#2)
    (hs : s.seq ≠ .gWback) : s.target ≠ .dmem := by
  unfold State.Of.SeqWf at h
  unfold State.Of.target
  cases hq : s.seq <;> simp only [hq] at h ⊢
  case idle => simp [hb] at h
  case pPerm | tPerm | tStages => simp [hop] at h
  case gFfta | gFftb | gIffta =>
    obtain ⟨-, -, ⟨hm, -⟩, -⟩ := h
    rw [hm]
    decide
  case gWback => exact absurd hq hs
  all_goals decide

/-- Settles O57: by what the micro-operation of each phase touches; the advance touches no memory. -/
theorem sequencerKeepsToItsSequence : Obligations.SequencerKeepsToItsSequence := by
  rintro s t ⟨-, -, -, hseq, -⟩ hb ht
  rw [coreStep_eq] at ht
  obtain ⟨d, hd, rfl⟩ := (coreStepBy_next_iff hb).1 ht
  have htouch := microDp_touches hd
  have hmem : (advance { s with dp := d }).dp.dmem = d.dmem := advance_mem _ .dmem
  have hl : s.afterLcalc.dmem = s.dp.dmem := s.afterLcalc_mem .dmem
  have other (h : s.target ≠ .dmem) : d.dmem = s.dp.dmem := (htouch.other .dmem h.symm).trans hl
  rw [hmem]
  refine ⟨fun k hk => ?_, fun hop hs => other (hseq.target_of_gen hb hop hs)⟩
  by_cases h : s.target = .dmem
  · have hkept := htouch.kept k fun hmem => absurd (hseq.touched_lt h k hmem) (Nat.not_lt.2 hk)
    rw [h] at hkept
    exact hkept.trans (congrArg (Mem.get · k) hl)
  · rw [other h]

end Sys2Proof.Machine
end

section
/-! Reset, the step of the sequencer, and the registers the host sees (10_state.md R21 to R23, R27, R39). -/

namespace Sys2Proof.Machine

/-- Settles O6: every memory is empty, and the idle core with no host move left stays as it is. -/
theorem resetState : Obligations.ResetState := by
  have idle : coreStepBy exec State.reset = .next State.reset := coreStepBy_idle rfl
  refine ⟨rfl, rfl, fun m k => ?_, idle⟩
  cases m <;> rfl

/-- Settles O9: by the three forms of a step of the sequencer. -/
theorem stepRunsMicroOp : Obligations.StepRunsMicroOp := by
  intro s hs
  have hstep : step s = coreStepBy exec s := stepBy_nil hs
  rw [hstep]
  refine ⟨coreStepBy_idle, coreStepBy_none, fun i hb hi => ?_⟩
  cases he : exec i s <;> simp only [coreStepBy, hb, hi, he, if_true]

/-! ## Register accesses -/

theorem readRegister_of_two_le {R : Type} {b : Bool} {r : Nat} (h : 2 ≤ r) (s : State.Of R) :
    readRegister b r s = .refused .noSuchRegister := by
  rw [readRegister, if_neg (by omega), if_neg (by omega)]

theorem registerWriteBy_of_two_le {R : Type} {ex : Instr → State.Of R → Out R} {r : Nat} (h : 2 ≤ r) (w : Word)
    (s : State.Of R) : registerWriteBy ex r w s = .refused .noSuchRegister := by
  rw [registerWriteBy, if_neg (by omega), writeOtherRegister, if_neg (by omega)]

/-- Settles O48: a register access is made at once, whether BUSY = 1 or not. -/
theorem registerAccesses : Obligations.RegisterAccesses := by
  intro s w r rest
  refine ⟨fun h => ?_, fun h => ?_, fun h => ?_, fun hr h => ?_, fun hr h => ?_⟩ <;>
    rw [step, stepBy_move h rfl]
  · rfl
  · rfl
  · rfl
  · exact readRegister_of_two_le hr _
  · exact registerWriteBy_of_two_le hr w _

/-! ## The STATUS word -/

/-- The STATUS word as a number: the four flags and ECODE above them fill the low 8 bits. -/
theorem statusWord_toNat {R : Type} (s : State.Of R) :
    (statusWord s).toNat =
      s.busy.toNat + s.done.toNat * 2 + s.err.toNat * 4 + s.dp.pfault.toNat * 8 + s.ecode.toNat * 16 := by
  have h1 := s.busy.toNat_lt
  have h2 := s.done.toNat_lt
  have h3 := s.err.toNat_lt
  have h4 := s.dp.pfault.toNat_lt
  have h5 := s.ecode.isLt
  rw [statusWord, BitVec.toNat_ofNat]
  omega

/-- A bit of a word is a Boolean that has the same number. -/
theorem getLsbD_eq_of_toNat {n : Nat} (x : BitVec n) (i : Nat) (b : Bool) (h : x.toNat / 2 ^ i % 2 = b.toNat) :
    x.getLsbD i = b := by
  rw [← BitVec.testBit_toNat, Nat.testBit_eq_decide_div_mod_eq, h]
  cases b <;> rfl

/-- Settles O49: each field is a quotient and remainder of the STATUS word's number. -/
theorem statusWordFields : Obligations.StatusWordFields := by
  intro s
  have h := statusWord_toNat s
  have h1 := s.busy.toNat_lt
  have h2 := s.done.toNat_lt
  have h3 := s.err.toNat_lt
  have h4 := s.dp.pfault.toNat_lt
  have h5 := s.ecode.isLt
  refine ⟨getLsbD_eq_of_toNat _ _ _ ?_, getLsbD_eq_of_toNat _ _ _ ?_, getLsbD_eq_of_toNat _ _ _ ?_,
    getLsbD_eq_of_toNat _ _ _ ?_, BitVec.eq_of_toNat_eq ?_, BitVec.eq_of_toNat_eq ?_⟩
  · rw [h]; omega
  · rw [h]; omega
  · rw [h]; omega
  · rw [h]; omega
  · rw [BitVec.extractLsb'_toNat, Nat.shiftRight_eq_div_pow, h]; omega
  · rw [BitVec.extractLsb'_toNat, Nat.shiftRight_eq_div_pow, h]; simp; omega

end Sys2Proof.Machine
end

section
/-! Control depends on no data value (10_state.md R27, 42_pow2_transform.md R146): the control part of a state, over which the
advance of the sequencer can be computed alone. -/

namespace Sys2Proof.Machine

variable {R : Type}

/-- The index registers alone. -/
def Regs.skeleton (r : Regs R) : Regs Unit :=
  { Regs.resetWith (⟨(), ()⟩ : Cplx Unit) with
    opc := r.opc, n := r.n, s := r.s, msel := r.msel, nn := r.nn, ss := r.ss, i := r.i, j := r.j, msk := r.msk,
    step := r.step, stride := r.stride, g := r.g, lo := r.lo, hi := r.hi, l := r.l, k := r.k }

/-- The control part of a state: the parameters, STATUS, the latched word, the sequencer and the index registers. -/
def State.Of.skeleton (s : State.Of R) : State.Of Unit :=
  { cmdl := s.cmdl, busy := s.busy, done := s.done, err := s.err, ecode := s.ecode, seq := s.seq, upos := s.upos,
    dp := { Datapath.resetWith (⟨(), ()⟩ : Cplx Unit) with
      par := s.dp.par, pfault := s.dp.pfault, r := s.dp.r.skeleton },
    faulty := false, script := [], rdata := .none }

theorem Regs.skeleton_eq_iff {r r' : Regs R} : r.skeleton = r'.skeleton ↔ sameIndexRegs r r' := by
  constructor
  · intro h
    cases r
    cases r'
    simp only [skeleton, Regs.mk.injEq] at h
    simp [sameIndexRegs, h]
  · intro h
    rw [h]
    rfl

theorem sameControl_iff {s t : State.Of R} : sameControl s t ↔ s.skeleton = t.skeleton := by
  have hr : s.dp.r.skeleton = t.dp.r.skeleton ↔ _ := Regs.skeleton_eq_iff
  simp only [sameControl, ← hr, State.Of.skeleton, State.Of.mk.injEq, Datapath.mk.injEq, eq_comm, true_and, and_true,
    Datapath.resetWith]
  tauto

/-! ## The advance works on the control part alone -/

theorem endPhase_skeleton (s : State.Of R) : (endPhase s).skeleton = endPhase s.skeleton := by
  have hs : s.skeleton.seq = s.seq := rfl
  unfold endPhase
  rw [hs]
  cases s.seq <;> rfl

theorem stageTest_skeleton (s : State.Of R) : (stageTest s).skeleton = stageTest s.skeleton := by
  by_cases h : s.dp.r.step < s.dp.r.nn
  · rw [stageTest_of_lt h, stageTest_of_lt (s := s.skeleton) h]
    rfl
  · rw [stageTest_of_not_lt h, stageTest_of_not_lt (s := s.skeleton) h]
    exact endPhase_skeleton s

theorem endPerm_skeleton (s : State.Of R) : (endPerm s).skeleton = endPerm s.skeleton := by
  have hs : s.skeleton.seq = s.seq := rfl
  have stages := stageTest_skeleton (s.withRegs Regs.startStages)
  unfold endPerm
  rw [hs]
  cases s.seq
  case pPerm => exact endPhase_skeleton s
  case tPerm => exact stageTest_skeleton { s.withRegs Regs.startStages with seq := .tStages }
  all_goals exact stages

theorem advancePerm_skeleton (s : State.Of R) : (advancePerm s).skeleton = advancePerm s.skeleton := by
  by_cases h : s.dp.r.i + 1 < s.dp.r.nn
  · rw [advancePerm_of_lt h, advancePerm_of_lt (s := s.skeleton) h]
    rfl
  · rw [advancePerm_of_not_lt h, advancePerm_of_not_lt (s := s.skeleton) h]
    exact endPerm_skeleton (s.withRegs Regs.nextPerm)

theorem advanceGroup_skeleton (s : State.Of R) : (advanceGroup s).skeleton = advanceGroup s.skeleton := by
  by_cases h : s.dp.r.g + 1 < s.dp.r.step
  · rw [advanceGroup_of_lt h, advanceGroup_of_lt (s := s.skeleton) h]
    rfl
  · rw [advanceGroup_of_not_lt h, advanceGroup_of_not_lt (s := s.skeleton) h]
    exact stageTest_skeleton (s.withRegs fun r => r.nextGroup.nextStage)

theorem advanceBfly_skeleton (s : State.Of R) : (advanceBfly s).skeleton = advanceBfly s.skeleton := by
  by_cases h : s.dp.r.lo + 2 * s.dp.r.step < s.dp.r.nn
  · rw [advanceBfly_of_lt h, advanceBfly_of_lt (s := s.skeleton) h]
    rfl
  · rw [advanceBfly_of_not_lt h, advanceBfly_of_not_lt (s := s.skeleton) h]
    exact advanceGroup_skeleton (s.withRegs Regs.nextPair)

theorem advanceK_skeleton (count : Nat) (s : State.Of R) : (advanceK count s).skeleton = advanceK count s.skeleton := by
  by_cases h : s.dp.r.k + 1 < count
  · rw [advanceK_of_lt h, advanceK_of_lt (s := s.skeleton) h]
    rfl
  · rw [advanceK_of_not_lt h, advanceK_of_not_lt (s := s.skeleton) h]
    exact endPhase_skeleton (s.withRegs Regs.nextK)

theorem advanceRoutine_skeleton (s : State.Of R) : (advanceRoutine s).skeleton = advanceRoutine s.skeleton := by
  have hu : s.skeleton.upos = s.upos := rfl
  unfold advanceRoutine
  rw [hu]
  cases s.upos with
  | single => rfl
  | perm => exact advancePerm_skeleton s
  | twld => rfl
  | bfly => exact advanceBfly_skeleton s

theorem advancePhase_skeleton (s : State.Of R) : (advancePhase s).skeleton = advancePhase s.skeleton := by
  have hs : s.skeleton.seq = s.seq := rfl
  unfold advancePhase
  rw [hs]
  cases s.seq
  case idle => rfl
  case gLcalc => exact endPhase_skeleton s
  case gChirp | gWback => exact advanceK_skeleton s.dp.r.n s
  case gCmod | gBkern | gPmul => exact advanceK_skeleton s.dp.r.l s
  all_goals exact advanceRoutine_skeleton s

/-! ## A step of the sequencer on the control part -/

/-- What a step of the sequencer does to the control part: LCALC, where it is the micro-operation, and the advance. -/
def State.Of.controlStep (s : State.Of R) : State.Of R := advancePhase { s with dp := s.afterLcalc }

theorem afterLcalc_skeleton (s : State.Of R) :
    State.Of.skeleton { s with dp := s.afterLcalc } = { s.skeleton with dp := s.skeleton.afterLcalc } := by
  by_cases h : s.seq = .gLcalc
  · have h' : s.skeleton.seq = .gLcalc := h
    rw [State.Of.afterLcalc_of_eq h, State.Of.afterLcalc_of_eq h']
    rfl
  · have h' : s.skeleton.seq ≠ .gLcalc := h
    rw [State.Of.afterLcalc_of_ne h, State.Of.afterLcalc_of_ne h']

theorem redraw_skeleton (s : State.Of R) : (redraw s).skeleton = s.skeleton := by
  rcases redraw_cases s with h | h <;> rw [h]
  rfl

/-- The control part after a step of the sequencer is a function of the control part before it. -/
theorem coreStepBy_skeleton {nm : Num R} {s t : State.Of R} (hb : s.busy = true)
    (h : coreStepBy (perform nm) s = .next t) : t.skeleton = s.skeleton.controlStep := by
  obtain ⟨d, hd, rfl⟩ := (coreStepBy_next_iff hb).1 h
  have ht := microDp_touches hd
  have hdp : State.Of.skeleton { s with dp := d } = State.Of.skeleton { s with dp := s.afterLcalc } :=
    ((sameControl_iff (s := { s with dp := s.afterLcalc }) (t := { s with dp := d })).1
      ⟨rfl, rfl, rfl, rfl, rfl, rfl, rfl, ht.fixed.2.1, ht.fixed.1, ht.regs⟩).symm
  rw [advance, redraw_skeleton, advancePhase_skeleton, hdp, afterLcalc_skeleton]
  rfl

/-- Settles O59: the control part after a step is a function of the control part before it. -/
theorem controlIgnoresData : Obligations.ControlIgnoresData := by
  intro s1 s2 t1 t2 hb hc h1 h2
  rw [coreStep_eq] at h1 h2
  have hb2 : s2.busy = true := hc.2.1.trans hb
  rw [sameControl_iff] at hc ⊢
  rw [coreStepBy_skeleton hb h1, coreStepBy_skeleton hb2 h2, hc]

end Sys2Proof.Machine
end

section
/-! The registers that the rest of a command reads before it writes them (10_state.md R35): the advance of the sequencer depends
on no other. -/

namespace Sys2Proof.Machine

variable {R : Type}

/-! ## The live registers -/

/-- The registers with those erased that a routine at this place does not read before it writes them. -/
def Regs.liveAt (u : RoutinePos) (r : Regs R) : Regs R :=
  match u with
  | .single => { r.stored with msel := r.msel, nn := r.nn, ss := r.ss }
  | .perm => { r.stored with msel := r.msel, nn := r.nn, ss := r.ss, i := r.i, j := r.j }
  | .twld =>
    { r.stored with msel := r.msel, nn := r.nn, ss := r.ss, step := r.step, stride := r.stride, g := r.g }
  | .bfly =>
    { r.stored with
      msel := r.msel, nn := r.nn, ss := r.ss, step := r.step, stride := r.stride, g := r.g, lo := r.lo, hi := r.hi }

/-- The registers with those erased that the rest of the command does not read before it writes them. -/
def Regs.live (ph : Phase) (u : RoutinePos) (r : Regs R) : Regs R :=
  match ph with
  | .idle => { r.stored with opc := 0#2, n := 0, s := .neg, l := 0 }
  | .gLcalc => { r.stored with l := 0 }
  | .gChirp | .gCmod | .gBkern | .gPmul | .gWback => { r.stored with k := r.k }
  | .pPerm => { r.liveAt u with ss := .neg, l := 0 }
  | .tPerm | .tStages => { r.liveAt u with l := 0 }
  | .gFfta | .gFftb | .gIffta => r.liveAt u

/-- The state with the registers erased that the rest of the command would not read, were the sequencer at place `u` of its
routine. -/
def State.Of.liveAs (u : RoutinePos) (s : State.Of R) : State.Of R := s.withRegs (Regs.live s.seq u)

/-- The state with the registers erased that the rest of the command does not read before it writes them. -/
def State.Of.live (s : State.Of R) : State.Of R := s.liveAs s.upos

/-! ## The advance depends on live registers alone -/

theorem endPhase_live {s : State.Of R} (hl : s.seq ≠ .gLcalc) :
    (endPhase s).live = (endPhase (s.liveAs .single)).live := by
  obtain ⟨cmdl, busy, done, err, ecode, seq, upos, dp, faulty, script, rdata⟩ := s
  cases seq
  case gLcalc => exact absurd rfl hl
  all_goals rfl

/-- A phase that has a routine begins the next one whatever the counters of the routine are. -/
theorem endPhase_routine_live {s : State.Of R} (hr : s.seq.isRoutine = true) (u : RoutinePos) :
    (endPhase s).live = (endPhase (s.liveAs u)).live := by
  obtain ⟨cmdl, busy, done, err, ecode, seq, upos, dp, faulty, script, rdata⟩ := s
  rcases Phase.routine_cases (ph := seq) hr with rfl | rfl | rfl | rfl | rfl | rfl <;> cases u <;> rfl

/-- The length a routine runs at is live everywhere in it. -/
theorem State.Of.liveAs_nn {s : State.Of R} (hr : s.seq.isRoutine = true) (u : RoutinePos) :
    (s.liveAs u).dp.r.nn = s.dp.r.nn := by
  obtain ⟨cmdl, busy, done, err, ecode, seq, upos, dp, faulty, script, rdata⟩ := s
  rcases Phase.routine_cases (ph := seq) hr with rfl | rfl | rfl | rfl | rfl | rfl <;> cases u <;> rfl

/-- The state with the registers erased that the test of the stage loop does not read. -/
def State.Of.liveStage (s : State.Of R) : State.Of R :=
  (s.liveAs .single).withRegs (fun r => { r with step := s.dp.r.step })

/-- The start of a stage writes the table stride and the group. -/
theorem startStage_live {s : State.Of R} (hr : s.seq.isRoutine = true) :
    State.Of.live { s.withRegs Regs.startStage with upos := .twld } =
      State.Of.live { s.liveStage.withRegs Regs.startStage with upos := .twld } := by
  obtain ⟨cmdl, busy, done, err, ecode, seq, upos, dp, faulty, script, rdata⟩ := s
  rcases Phase.routine_cases (ph := seq) hr with rfl | rfl | rfl | rfl | rfl | rfl <;>
    simp [State.Of.live, State.Of.liveAs, State.Of.liveStage, Regs.live, Regs.liveAt, Regs.stored, State.Of.withRegs,
      Datapath.withRegs, Regs.startStage, tableStride]

theorem liveStage_liveAs_single {s : State.Of R} (hr : s.seq.isRoutine = true) :
    s.liveStage.liveAs .single = s.liveAs .single := by
  obtain ⟨cmdl, busy, done, err, ecode, seq, upos, dp, faulty, script, rdata⟩ := s
  rcases Phase.routine_cases (ph := seq) hr with rfl | rfl | rfl | rfl | rfl | rfl <;> rfl

theorem stageTest_live {s : State.Of R} (hr : s.seq.isRoutine = true) :
    (stageTest s).live = (stageTest s.liveStage).live := by
  have hnn : s.liveStage.dp.r.nn = s.dp.r.nn := s.liveAs_nn hr .single
  by_cases h : s.dp.r.step < s.dp.r.nn
  · rw [stageTest_of_lt h, stageTest_of_lt (s := s.liveStage) (hnn.symm ▸ h)]
    exact startStage_live hr
  · rw [stageTest_of_not_lt h, stageTest_of_not_lt (s := s.liveStage) (hnn.symm ▸ h), endPhase_routine_live hr .single,
      endPhase_routine_live (s := s.liveStage) hr .single, liveStage_liveAs_single hr]

/-- Two states of which the test of the stage loop reads the same. -/
theorem stageTest_live_congr {s s' : State.Of R} (hr : s.seq.isRoutine = true) (h : s.liveStage = s'.liveStage) :
    (stageTest s).live = (stageTest s').live := by
  have hr' : s'.seq.isRoutine = true := (congrArg (fun u : State.Of R => u.seq.isRoutine) h).symm.trans hr
  rw [stageTest_live hr, h, ← stageTest_live hr']

theorem endPerm_live {s : State.Of R} (hr : s.seq.isRoutine = true) :
    (endPerm s).live = (endPerm (s.liveAs .perm)).live := by
  have hs : (s.liveAs .perm).seq = s.seq := rfl
  unfold endPerm
  rw [hs]
  split
  · exact endPhase_routine_live hr .perm
  · rename_i hq
    refine stageTest_live_congr rfl ?_
    obtain ⟨cmdl, busy, done, err, ecode, seq, upos, dp, faulty, script, rdata⟩ := s
    obtain rfl : seq = .tPerm := hq
    rfl
  · refine stageTest_live_congr hr ?_
    obtain ⟨cmdl, busy, done, err, ecode, seq, upos, dp, faulty, script, rdata⟩ := s
    rcases Phase.routine_cases (ph := seq) hr with rfl | rfl | rfl | rfl | rfl | rfl <;> rfl

theorem advancePerm_live {s : State.Of R} (hr : s.seq.isRoutine = true) (hu : s.upos = .perm) :
    (advancePerm s).live = (advancePerm (s.liveAs .perm)).live := by
  have hi : (s.liveAs .perm).dp.r.i = s.dp.r.i := by
    obtain ⟨cmdl, busy, done, err, ecode, seq, upos, dp, faulty, script, rdata⟩ := s
    rcases Phase.routine_cases (ph := seq) hr with rfl | rfl | rfl | rfl | rfl | rfl <;> rfl
  have hn := s.liveAs_nn hr .perm
  have hnext : (s.withRegs Regs.nextPerm).liveAs .perm = ((s.liveAs .perm).withRegs Regs.nextPerm).liveAs .perm := by
    obtain ⟨cmdl, busy, done, err, ecode, seq, upos, dp, faulty, script, rdata⟩ := s
    rcases Phase.routine_cases (ph := seq) hr with rfl | rfl | rfl | rfl | rfl | rfl <;> rfl
  by_cases h : s.dp.r.i + 1 < s.dp.r.nn
  · rw [advancePerm_of_lt h, advancePerm_of_lt (s := s.liveAs .perm) (by rw [hi, hn]; exact h)]
    have hl : (s.withRegs Regs.nextPerm).live = (s.withRegs Regs.nextPerm).liveAs .perm := congrArg (State.Of.liveAs · _) hu
    have hl' : ((s.liveAs .perm).withRegs Regs.nextPerm).live = ((s.liveAs .perm).withRegs Regs.nextPerm).liveAs .perm :=
      congrArg (State.Of.liveAs · _) hu
    rw [hl, hl', hnext]
  · rw [advancePerm_of_not_lt h, advancePerm_of_not_lt (s := s.liveAs .perm) (by rw [hi, hn]; exact h)]
    have e := endPerm_live (s := s.withRegs Regs.nextPerm) hr
    have e' := endPerm_live (s := (s.liveAs .perm).withRegs Regs.nextPerm) hr
    rw [e, e', hnext]

theorem advanceGroup_live {s : State.Of R} (hr : s.seq.isRoutine = true) :
    (advanceGroup s).live = (advanceGroup (s.liveAs .twld)).live := by
  have hg : (s.liveAs .twld).dp.r.g = s.dp.r.g ∧ (s.liveAs .twld).dp.r.step = s.dp.r.step := by
    obtain ⟨cmdl, busy, done, err, ecode, seq, upos, dp, faulty, script, rdata⟩ := s
    rcases Phase.routine_cases (ph := seq) hr with rfl | rfl | rfl | rfl | rfl | rfl <;> exact ⟨rfl, rfl⟩
  obtain ⟨hg, hstep⟩ := hg
  by_cases h : s.dp.r.g + 1 < s.dp.r.step
  · rw [advanceGroup_of_lt h, advanceGroup_of_lt (s := s.liveAs .twld) (by rw [hg, hstep]; exact h)]
    obtain ⟨cmdl, busy, done, err, ecode, seq, upos, dp, faulty, script, rdata⟩ := s
    rcases Phase.routine_cases (ph := seq) hr with rfl | rfl | rfl | rfl | rfl | rfl <;> rfl
  · rw [advanceGroup_of_not_lt h, advanceGroup_of_not_lt (s := s.liveAs .twld) (by rw [hg, hstep]; exact h)]
    refine stageTest_live_congr hr ?_
    obtain ⟨cmdl, busy, done, err, ecode, seq, upos, dp, faulty, script, rdata⟩ := s
    rcases Phase.routine_cases (ph := seq) hr with rfl | rfl | rfl | rfl | rfl | rfl <;> rfl

theorem advanceBfly_live {s : State.Of R} (hr : s.seq.isRoutine = true) (hu : s.upos = .bfly) :
    (advanceBfly s).live = (advanceBfly (s.liveAs .bfly)).live := by
  have hlo : (s.liveAs .bfly).dp.r.lo = s.dp.r.lo ∧ (s.liveAs .bfly).dp.r.step = s.dp.r.step := by
    obtain ⟨cmdl, busy, done, err, ecode, seq, upos, dp, faulty, script, rdata⟩ := s
    rcases Phase.routine_cases (ph := seq) hr with rfl | rfl | rfl | rfl | rfl | rfl <;> exact ⟨rfl, rfl⟩
  obtain ⟨hlo, hstep⟩ := hlo
  have hn := s.liveAs_nn hr .bfly
  by_cases h : s.dp.r.lo + 2 * s.dp.r.step < s.dp.r.nn
  · rw [advanceBfly_of_lt h, advanceBfly_of_lt (s := s.liveAs .bfly) (by rw [hlo, hstep, hn]; exact h)]
    obtain ⟨cmdl, busy, done, err, ecode, seq, upos, dp, faulty, script, rdata⟩ := s
    obtain rfl : upos = .bfly := hu
    rcases Phase.routine_cases (ph := seq) hr with rfl | rfl | rfl | rfl | rfl | rfl <;> rfl
  · rw [advanceBfly_of_not_lt h, advanceBfly_of_not_lt (s := s.liveAs .bfly) (by rw [hlo, hstep, hn]; exact h)]
    have e := advanceGroup_live (s := s.withRegs Regs.nextPair) hr
    have e' := advanceGroup_live (s := (s.liveAs .bfly).withRegs Regs.nextPair) hr
    rw [e, e']
    congr 2
    obtain ⟨cmdl, busy, done, err, ecode, seq, upos, dp, faulty, script, rdata⟩ := s
    rcases Phase.routine_cases (ph := seq) hr with rfl | rfl | rfl | rfl | rfl | rfl <;> rfl

theorem advanceTwld_live {s : State.Of R} (hr : s.seq.isRoutine = true) :
    (advanceTwld s).live = (advanceTwld (s.liveAs .twld)).live := by
  obtain ⟨cmdl, busy, done, err, ecode, seq, upos, dp, faulty, script, rdata⟩ := s
  rcases Phase.routine_cases (ph := seq) hr with rfl | rfl | rfl | rfl | rfl | rfl <;> rfl

theorem advanceRoutine_live {s : State.Of R} (hr : s.seq.isRoutine = true) :
    (advanceRoutine s).live = (advanceRoutine s.live).live := by
  have hu : s.live.upos = s.upos := rfl
  unfold advanceRoutine
  rw [hu]
  cases hq : s.upos with
  | single =>
    obtain ⟨cmdl, busy, done, err, ecode, seq, upos, dp, faulty, script, rdata⟩ := s
    obtain rfl : upos = .single := hq
    rcases Phase.routine_cases (ph := seq) hr with rfl | rfl | rfl | rfl | rfl | rfl <;> rfl
  | perm =>
    have hl : s.live = s.liveAs .perm := congrArg (State.Of.liveAs · _) hq
    rw [hl]
    exact advancePerm_live hr hq
  | twld =>
    have hl : s.live = s.liveAs .twld := congrArg (State.Of.liveAs · _) hq
    rw [hl]
    exact advanceTwld_live hr
  | bfly =>
    have hl : s.live = s.liveAs .bfly := congrArg (State.Of.liveAs · _) hq
    rw [hl]
    exact advanceBfly_live hr hq

/-- A loop over K reads K and its bound. -/
theorem advanceK_live {s : State.Of R} (count : Nat) (hk : s.live.dp.r.k = s.dp.r.k) (hl : s.seq ≠ .gLcalc)
    (hnext : (s.withRegs Regs.nextK).live = (s.live.withRegs Regs.nextK).live)
    (hend : (s.withRegs Regs.nextK).liveAs .single = (s.live.withRegs Regs.nextK).liveAs .single) :
    (advanceK count s).live = (advanceK count s.live).live := by
  by_cases h : s.dp.r.k + 1 < count
  · rw [advanceK_of_lt h, advanceK_of_lt (s := s.live) (by rw [hk]; exact h), hnext]
  · have e := endPhase_live (s := s.withRegs Regs.nextK) hl
    have e' := endPhase_live (s := s.live.withRegs Regs.nextK) hl
    rw [advanceK_of_not_lt h, advanceK_of_not_lt (s := s.live) (by rw [hk]; exact h), e, e', hend]

/-- The live part of the control state after a step of the sequencer is a function of the live part before it. -/
theorem controlStep_live (s : State.Of R) : s.controlStep.live = s.live.controlStep.live := by
  by_cases hl : s.seq = .gLcalc
  · obtain ⟨cmdl, busy, done, err, ecode, seq, upos, dp, faulty, script, rdata⟩ := s
    obtain rfl : seq = .gLcalc := hl
    rfl
  · have e : s.controlStep = advancePhase s := by rw [State.Of.controlStep, State.Of.afterLcalc_of_ne hl]
    have e' : s.live.controlStep = advancePhase s.live := by
      rw [State.Of.controlStep, State.Of.afterLcalc_of_ne (s := s.live) hl]
    rw [e, e']
    by_cases hr : s.seq.isRoutine = true
    · have h := advanceRoutine_live hr
      obtain ⟨cmdl, busy, done, err, ecode, seq, upos, dp, faulty, script, rdata⟩ := s
      rcases Phase.routine_cases (ph := seq) hr with rfl | rfl | rfl | rfl | rfl | rfl <;> exact h
    · obtain ⟨cmdl, busy, done, err, ecode, seq, upos, dp, faulty, script, rdata⟩ := s
      cases seq
      case idle => rfl
      case gLcalc => exact absurd rfl hl
      case gChirp | gCmod | gBkern | gPmul | gWback => exact advanceK_live _ rfl nofun rfl rfl
      all_goals exact absurd rfl hr

end Sys2Proof.Machine
end

section
/-! The result of a command depends on no hidden state (10_state.md R35): two runs of one command on cores that agree on
DMEM[0..N-1] and the capacities. -/

namespace Sys2Proof.Machine

variable {R : Type}

/-! ## Micro-operations on two datapaths that agree on what is read -/

/-- Both datapaths have the same capacities and no protocol fault, and agree on the elements of `D`. -/
structure AgreeOn (D : MemId → Nat → Prop) (d e : Datapath R) : Prop where
  par : e.par = d.par
  pfault : d.pfault = false
  pfault' : e.pfault = false
  get : ∀ m k, D m k → Mem.get (e.mem m) k = Mem.get (d.mem m) k

/-- The elements of `D` and the elements `ks` of memory `m`. -/
def withElems (D : MemId → Nat → Prop) (m : MemId) (ks : List Nat) : MemId → Nat → Prop :=
  fun m' k => D m' k ∨ (m' = m ∧ k ∈ ks)

theorem withElems_nil (D : MemId → Nat → Prop) (m : MemId) : withElems D m [] = D := by
  funext m' k
  simp [withElems]

namespace AgreeOn

variable {D : MemId → Nat → Prop} {d e : Datapath R}

theorem size (h : AgreeOn D d e) (m : MemId) : e.size m = d.size m := by
  cases m <;> simp [Datapath.size, h.par]

theorem read (h : AgreeOn D d e) {nm : Num R} {m : MemId} {k : Nat} (hk : D m k) :
    memRead nm m k e = memRead nm m k d := by
  simp [memRead, h.size, h.pfault, h.pfault', h.get m k hk]

theorem withRegs (h : AgreeOn D d e) (f g : Regs R → Regs R) : AgreeOn D (d.withRegs f) (e.withRegs g) where
  par := h.par
  pfault := h.pfault
  pfault' := h.pfault'
  get m k hk := by simpa using h.get m k hk

theorem write (h : AgreeOn D d e) {m : MemId} {k : Nat} {v : Cplx R} {d' : Datapath R} (hd : memWrite m k v d = .ok d') :
    ∃ e', memWrite m k v e = .ok e' ∧ AgreeOn (withElems D m [k]) d' e' := by
  obtain ⟨hk, -⟩ := memWrite_ok_iff.1 hd
  have he := memWrite_eq (d := e) v ((h.size m).symm ▸ hk)
  have td := Touches.of_memWrite hd
  have te := Touches.of_memWrite he
  refine ⟨_, he, te.fixed.1.trans (h.par.trans td.fixed.1.symm), td.fixed.2.1.trans h.pfault,
    te.fixed.2.1.trans h.pfault', fun m' k' hk' => ?_⟩
  rw [memWrite_get hd, memWrite_get he]
  split
  · rfl
  · rename_i hne
    rcases hk' with hk' | ⟨rfl, hk'⟩
    · exact h.get m' k' hk'
    · exact absurd ⟨rfl, List.mem_singleton.1 hk'⟩ hne

/-- Two writes to one memory. -/
theorem write_two (h : AgreeOn D d e) {m : MemId} {a b : Nat} {v w : Cplx R} {d' d'' : Datapath R}
    (hd : memWrite m a v d = .ok d') (hd' : memWrite m b w d' = .ok d'') :
    ∃ e', memWrite m a v e = .ok e' ∧ ∃ e'', memWrite m b w e' = .ok e'' ∧ AgreeOn (withElems D m [a, b]) d'' e'' := by
  obtain ⟨e', he, h'⟩ := h.write hd
  obtain ⟨e'', he', h''⟩ := h'.write hd'
  refine ⟨e', he, e'', he', h''.par, h''.pfault, h''.pfault', fun m' k hk => h''.get m' k ?_⟩
  rcases hk with hk | ⟨rfl, hk⟩
  · exact .inl (.inl hk)
  · rcases List.mem_pair.1 hk with rfl | rfl
    · exact .inl (.inr ⟨rfl, List.mem_singleton.2 rfl⟩)
    · exact .inr ⟨rfl, List.mem_singleton.2 rfl⟩

variable {nm : Num R} {d' : Datapath R}

theorem swap (h : AgreeOn D d e) {m : MemSel} {a b : Nat} (ha : D (memOf m) a) (hb : D (memOf m) b)
    (hd : Machine.swap nm m a b d = .ok d') :
    ∃ e', Machine.swap nm m a b e = .ok e' ∧ AgreeOn (withElems D (memOf m) [a, b]) d' e' := by
  simp only [Machine.swap, except_bind_eq_ok] at hd
  obtain ⟨x, hx, y, hy, d1, h1, h2⟩ := hd
  obtain ⟨e1, he1, e2, he2, h'⟩ := (h.withRegs _ (fun r => { r with t := x, z := y })).write_two h1 h2
  exact ⟨e2, by simp only [Machine.swap, h.read ha, h.read hb, hx, hy, except_bind_ok, he1, he2], h'⟩

theorem bfly (h : AgreeOn D d e) {m : MemSel} {lo hi : Nat} (hw : e.r.w = d.r.w) (hlo : D (memOf m) lo)
    (hhi : D (memOf m) hi) (hd : Machine.bfly nm m lo hi d = .ok d') :
    ∃ e', Machine.bfly nm m lo hi e = .ok e' ∧ AgreeOn (withElems D (memOf m) [hi, lo]) d' e' := by
  simp only [Machine.bfly, except_bind_eq_ok] at hd
  obtain ⟨x, hx, y, hy, d1, h1, h2⟩ := hd
  obtain ⟨e1, he1, e2, he2, h'⟩ := (h.withRegs _ (fun r => { r with p := cmul nm e.r.w x, t := y })).write_two h1 h2
  rw [← hw] at he1 he2
  exact ⟨e2, by simp only [Machine.bfly, h.read hhi, h.read hlo, hx, hy, except_bind_ok, he1, he2], h'⟩

theorem writeZ (h : AgreeOn D d e) {m : MemId} {v : Cplx R} (hk : e.r.k = d.r.k) (hd : Machine.writeZ m v d = .ok d') :
    ∃ e', Machine.writeZ m v e = .ok e' ∧ AgreeOn (withElems D m [d.r.k]) d' e' := by
  unfold Machine.writeZ at hd ⊢
  rw [hk]
  exact (h.withRegs _ _).write hd

theorem chirpgen (h : AgreeOn D d e) (hk : e.r.k = d.r.k) (hn : e.r.n = d.r.n) (hs : e.r.s = d.r.s)
    (hd : Machine.chirpgen nm d = .ok d') :
    ∃ e', Machine.chirpgen nm e = .ok e' ∧ AgreeOn (withElems D .chtab [d.r.k]) d' e' := by
  unfold Machine.chirpgen at hd ⊢
  rw [hk, hn, hs]
  exact h.write hd

theorem cmod (h : AgreeOn D d e) (hk : e.r.k = d.r.k) (hn : e.r.n = d.r.n)
    (hD : d.r.k < d.r.n → D .chtab d.r.k ∧ D .dmem d.r.k) (hd : Machine.cmod nm d = .ok d') :
    ∃ e', Machine.cmod nm e = .ok e' ∧ AgreeOn (withElems D .amem [d.r.k]) d' e' := by
  unfold Machine.cmod at hd ⊢
  rw [hk, hn]
  split at hd
  · rename_i hlt
    obtain ⟨hc, hx⟩ := hD hlt
    obtain ⟨c, hc', x, hx', hd⟩ := by simpa only [except_bind_eq_ok] using hd
    rw [if_pos hlt, h.read hc, h.read hx, hc', hx']
    exact h.writeZ hk hd
  · rw [if_neg ‹_›]
    exact h.writeZ hk hd

theorem bkern (h : AgreeOn D d e) (hk : e.r.k = d.r.k) (hn : e.r.n = d.r.n) (hl : e.r.l = d.r.l)
    (hD : ∀ j, j < d.r.n → D .chtab j) (hpos : 0 < d.r.n) (hkl : d.r.k < d.r.l) (hd : Machine.bkern nm d = .ok d') :
    ∃ e', Machine.bkern nm e = .ok e' ∧ AgreeOn (withElems D .bmem [d.r.k]) d' e' := by
  have hrefl : reflectedIndex e.r = reflectedIndex d.r := by simp [reflectedIndex, hk, hl]
  unfold Machine.bkern at hd ⊢
  rw [hk, hn, hl, hrefl]
  split at hd
  · obtain ⟨c, hc, hd⟩ := except_bind_eq_ok.1 hd
    rw [if_pos ‹_›, h.read (hD 0 hpos), hc]
    exact h.writeZ hk hd
  · rw [if_neg ‹_›]
    split at hd
    · rename_i hlt
      obtain ⟨c, hc, hd⟩ := except_bind_eq_ok.1 hd
      rw [if_pos hlt, h.read (hD _ hlt), hc]
      exact h.writeZ hk hd
    · rw [if_neg ‹_›]
      split at hd
      · rename_i hlt
        obtain ⟨c, hc, hd⟩ := except_bind_eq_ok.1 hd
        have hj : reflectedIndex d.r < d.r.n := by simp only [reflectedIndex]; omega
        rw [if_pos hlt, h.read (hD _ hj), hc]
        exact h.writeZ hk hd
      · rw [if_neg ‹_›]
        exact h.writeZ hk hd

theorem pmul (h : AgreeOn D d e) (hk : e.r.k = d.r.k) (ha : D .amem d.r.k) (hb : D .bmem d.r.k)
    (hd : Machine.pmul nm d = .ok d') :
    ∃ e', Machine.pmul nm e = .ok e' ∧ AgreeOn (withElems D .amem [d.r.k]) d' e' := by
  unfold Machine.pmul at hd ⊢
  obtain ⟨a, ha', b, hb', hd⟩ := by simpa only [except_bind_eq_ok] using hd
  rw [hk, h.read ha, h.read hb, ha', hb']
  exact h.writeZ hk hd

theorem wback (h : AgreeOn D d e) (hk : e.r.k = d.r.k) (hl : e.r.l = d.r.l) (ha : D .amem d.r.k)
    (hc : D .chtab d.r.k) (hd : Machine.wback nm d = .ok d') :
    ∃ e', Machine.wback nm e = .ok e' ∧ AgreeOn (withElems D .dmem [d.r.k]) d' e' := by
  unfold Machine.wback at hd ⊢
  obtain ⟨a, ha', c, hc', hd⟩ := by simpa only [except_bind_eq_ok] using hd
  rw [hk, hl, h.read ha, h.read hc, ha', hc']
  exact (h.withRegs _ _).write hd

end AgreeOn

/-- BFLY reads W and leaves it. -/
theorem bfly_w {nm : Num R} {m : MemSel} {lo hi : Nat} {d d' : Datapath R} (h : bfly nm m lo hi d = .ok d') :
    d'.r.w = d.r.w := by
  simp only [bfly, except_bind_eq_ok, memWrite_ok_iff] at h
  obtain ⟨x, -, y, -, d1, ⟨-, rfl⟩, -, rfl⟩ := h
  simp

end Sys2Proof.Machine
end

section
/-! Two runs of one command in step (10_state.md R35). -/

namespace Sys2Proof.Machine

variable {R : Type}

/-! ## The elements a command has written by the time of a phase -/

/-- How many elements of each memory, from 0, the rest of the command may read: of DMEM the first N, of a hidden memory those the
command has written. -/
def State.Of.filled (s : State.Of R) (m : MemId) : Nat :=
  match m with
  | .dmem => lenField s.cmdl
  | .chtab =>
    match s.seq with
    | .idle | .pPerm | .tPerm | .tStages | .gLcalc => 0
    | .gChirp => s.dp.r.k
    | .gCmod | .gBkern | .gFfta | .gFftb | .gPmul | .gIffta | .gWback => s.dp.r.n
  | .amem =>
    match s.seq with
    | .idle | .pPerm | .tPerm | .tStages | .gLcalc | .gChirp => 0
    | .gCmod => s.dp.r.k
    | .gBkern | .gFfta | .gFftb | .gPmul | .gIffta | .gWback => s.dp.r.l
  | .bmem =>
    match s.seq with
    | .idle | .pPerm | .tPerm | .tStages | .gLcalc | .gChirp | .gCmod => 0
    | .gBkern => s.dp.r.k
    | .gFfta | .gFftb | .gPmul | .gIffta | .gWback => s.dp.r.l

/-- The loops over K that fill a hidden memory write element K of it. -/
def State.Of.Fills (s : State.Of R) (m : MemId) : Prop :=
  (s.seq = .gChirp ∧ m = .chtab) ∨ (s.seq = .gCmod ∧ m = .amem) ∨ (s.seq = .gBkern ∧ m = .bmem)

theorem endPhase_filled {s : State.Of R} (hr : s.seq.isRoutine = true) (m : MemId) :
    (endPhase s).filled m ≤ s.filled m := by
  rcases Phase.routine_cases hr with hs | hs | hs | hs | hs | hs <;> cases m <;>
    simp [endPhase, State.Of.filled, hs]

theorem RoutineMove.filled_le {s t : State.Of R} (hr : s.seq.isRoutine = true) (h : RoutineMove s t) (m : MemId) :
    t.filled m ≤ s.filled m := by
  have hn : ∀ f : Regs R → Regs R, CountersOnly f → (s.withRegs f).filled m = s.filled m := fun f hf => by
    obtain ⟨e1, e2, e3⟩ := hf.n_l_k s.dp.r
    simp [State.Of.filled, e1, e2, e3]
  cases h with
  | stay f u hf _ => exact (hn f hf).le
  | stages f hf hs => cases m <;> simp [State.Of.filled]
  | done f hf => exact (endPhase_filled (s := s.withRegs f) hr m).trans (hn f hf).le

/-- What the advance adds to `filled` is the element K that the micro-operation has just written. -/
theorem advancePhase_filled {s : State.Of R} {m : MemId} {k : Nat} (hk : k < (advancePhase s).filled m) :
    k < s.filled m ∨ (s.Fills m ∧ k = s.dp.r.k) := by
  by_cases hr : s.seq.isRoutine = true
  · have h := (advanceRoutine_move s).filled_le hr m
    have e : advancePhase s = advanceRoutine s := advancePhase_of_routine hr
    exact .inl ((e ▸ hk).trans_le h)
  · unfold advancePhase at hk
    cases hs : s.seq <;> simp only [hs] at hk hr
    case idle => exact .inl hk
    case gLcalc => cases m <;> simp [State.Of.filled, endPhase, hs] at hk ⊢; omega
    case gChirp | gWback =>
      by_cases h : s.dp.r.k + 1 < s.dp.r.n
      · rw [advanceK_of_lt h] at hk
        cases m <;> simp [State.Of.filled, State.Of.Fills, hs] at hk ⊢ <;> omega
      · rw [advanceK_of_not_lt h] at hk
        cases m <;> simp [State.Of.filled, State.Of.Fills, endPhase, hs] at hk ⊢ <;> omega
    case gCmod | gBkern | gPmul =>
      by_cases h : s.dp.r.k + 1 < s.dp.r.l
      · rw [advanceK_of_lt h] at hk
        cases m <;> simp [State.Of.filled, State.Of.Fills, hs] at hk ⊢ <;> omega
      · rw [advanceK_of_not_lt h] at hk
        cases m <;> simp [State.Of.filled, State.Of.Fills, endPhase, hs] at hk ⊢ <;> omega
    all_goals exact absurd rfl hr

/-- Inside a routine every element the micro-operation touches is among those the rest of the command may read. -/
theorem State.Of.SeqWf.routine_filled {s : State.Of R} (h : s.SeqWf) (hr : s.seq.isRoutine = true) {k : Nat}
    (hk : k < s.dp.r.nn) : k < s.filled (memOf s.dp.r.msel) := by
  have hw := (h.routine hr).1
  unfold State.Of.RoutineWf at hw
  rcases Phase.routine_cases hr with hs | hs | hs | hs | hs | hs <;> simp only [hs] at hw
  case inl =>
    obtain ⟨-, ⟨-, hn, -⟩, -, hm, hnn, -⟩ := hw
    rw [hm, memOf, State.Of.filled, ← hn, ← hnn]
    exact hk
  case inr.inl | inr.inr.inl =>
    obtain ⟨-, ⟨-, hn, -⟩, -, ⟨hm, hnn, -⟩, -⟩ := hw
    rw [hm, memOf, State.Of.filled, ← hn, ← hnn]
    exact hk
  all_goals
    obtain ⟨-, -, ⟨hm, hnn, -⟩, -⟩ := hw
    simp only [hm, memOf, State.Of.filled, hs]
    exact hnn ▸ hk

/-- The micro-operation changes none of the registers that `filled` reads. -/
theorem microDp_filled {nm : Num R} {s : State.Of R} {d : Datapath R} (hd : microDp nm s = .ok d) (m : MemId) :
    State.Of.filled { s with dp := d } m = s.filled m ∧ d.r.k = s.dp.r.k := by
  have ht := (microDp_touches hd).regs
  by_cases hs : s.seq = .gLcalc
  · rw [State.Of.afterLcalc_of_eq hs] at ht
    refine ⟨?_, by rw [ht]; rfl⟩
    cases m <;> simp [State.Of.filled, hs]
  · rw [State.Of.afterLcalc_of_ne hs] at ht
    have hn : d.r.n = s.dp.r.n := by rw [ht]
    have hl : d.r.l = s.dp.r.l := by rw [ht]
    have hk : d.r.k = s.dp.r.k := by rw [ht]
    exact ⟨by simp only [State.Of.filled, hn, hl, hk], hk⟩

/-- The element that the loop of the phase fills is the one its micro-operation touches. -/
theorem State.Of.Fills.touched {s : State.Of R} {m : MemId} (h : s.Fills m) : m = s.target ∧ s.dp.r.k ∈ s.touched := by
  rcases h with ⟨hs, rfl⟩ | ⟨hs, rfl⟩ | ⟨hs, rfl⟩ <;> simp [State.Of.target, State.Of.touched, hs]

/-- No phase begins with a BFLY. -/
theorem endPhase_not_bfly {s : State.Of R} (hs : s.seq ≠ .idle) : (endPhase s).upos ≠ .bfly := by
  unfold endPhase
  cases hq : s.seq
  case idle => exact absurd hq hs
  all_goals exact nofun

/-- R145: BFLY comes after TWLD or BFLY only. -/
theorem before_bfly {s : State.Of R} (hr : (advancePhase s).seq.isRoutine = true) (hu : (advancePhase s).upos = .bfly) :
    s.seq.isRoutine = true ∧ (s.upos = .twld ∨ s.upos = .bfly) := by
  by_cases h : s.seq.isRoutine = true
  · refine ⟨h, ?_⟩
    have e : advancePhase s = advanceRoutine s := advancePhase_of_routine h
    rw [e] at hu
    have hm := advanceRoutine_move s
    generalize advanceRoutine s = t at hu hm
    cases hm with
    | stay f u hf hb => exact hb hu
    | stages f hf hs => cases hu
    | done f hf =>
      have hs : s.seq ≠ .idle := fun e => by rw [e] at h; cases h
      exact absurd hu (endPhase_not_bfly (s := s.withRegs f) hs)
  · have loop : ∀ count, advancePhase s = advanceK count s → s.seq ≠ .idle → False := fun count e hs => by
      rw [e] at hr hu
      by_cases hk : s.dp.r.k + 1 < count
      · rw [advanceK_of_lt hk] at hr
        exact h hr
      · rw [advanceK_of_not_lt hk] at hu
        exact endPhase_not_bfly (s := s.withRegs Regs.nextK) hs hu
    cases hs : s.seq
    case idle => simp [advancePhase, hs, Phase.isRoutine] at hr
    case gLcalc =>
      rw [advancePhase, hs] at hu
      exact absurd hu (endPhase_not_bfly (by simp [hs]))
    case gChirp | gCmod | gBkern | gPmul | gWback => exact (loop _ (by rw [advancePhase, hs]) (by simp [hs])).elim
    all_goals exact absurd (by simp [hs, Phase.isRoutine]) h

/-! ## Two runs in step -/

/-- Two busy or idle cores at the same place of the same command: they agree on the live registers, on every element that the rest
of the command may read, and on W where BFLY is to read it. -/
structure Twins (s t : State.Of R) : Prop where
  seqWf : s.SeqWf
  live : s.skeleton.live = t.skeleton.live
  pfault : s.dp.pfault = false
  w : s.seq.isRoutine = true → s.upos = .bfly → t.dp.r.w = s.dp.r.w
  get : ∀ m k, k < s.filled m → Mem.get (t.dp.mem m) k = Mem.get (s.dp.mem m) k

namespace Twins

variable {s t : State.Of R}

theorem status (h : Twins s t) :
    t.busy = s.busy ∧ t.done = s.done ∧ t.err = s.err ∧ t.ecode = s.ecode ∧ t.dp.pfault = s.dp.pfault :=
  ⟨(congrArg State.Of.busy h.live :).symm, (congrArg State.Of.done h.live :).symm, (congrArg State.Of.err h.live :).symm,
    (congrArg State.Of.ecode h.live :).symm, (congrArg (fun u : State.Of Unit => u.dp.pfault) h.live :).symm⟩

theorem place (h : Twins s t) : t.seq = s.seq ∧ t.upos = s.upos :=
  ⟨(congrArg State.Of.seq h.live :).symm, (congrArg State.Of.upos h.live :).symm⟩

theorem agreeOn (h : Twins s t) : AgreeOn (fun m k => k < s.filled m) s.dp t.dp where
  par := (congrArg (fun u : State.Of Unit => u.dp.par) h.live :).symm
  pfault := h.pfault
  pfault' := h.status.2.2.2.2.trans h.pfault
  get := h.get

/-- The live registers are equal. -/
theorem liveRegs (h : Twins s t) :
    Regs.live s.seq s.upos t.dp.r.skeleton = Regs.live s.seq s.upos s.dp.r.skeleton := by
  have e := (congrArg (fun u : State.Of Unit => u.dp.r) h.live :)
  obtain ⟨hs, hu⟩ := h.place
  have e' : Regs.live s.seq s.upos s.dp.r.skeleton = Regs.live t.seq t.upos t.dp.r.skeleton := e
  rw [e', hs, hu]

theorem routineRegs (h : Twins s t) (hr : s.seq.isRoutine = true) :
    t.dp.r.msel = s.dp.r.msel ∧ t.dp.r.nn = s.dp.r.nn := by
  have e := h.liveRegs
  rcases Phase.routine_cases hr with hs | hs | hs | hs | hs | hs <;> cases hu : s.upos <;> rw [hs, hu] at e <;>
    exact ⟨(congrArg Regs.msel e :), (congrArg Regs.nn e :)⟩

/-- PERMUTE has no sign; every other routine reads SS. -/
theorem signReg (h : Twins s t) (hr : s.seq.isRoutine = true) (hp : s.seq ≠ .pPerm) : t.dp.r.ss = s.dp.r.ss := by
  have e := h.liveRegs
  rcases (Phase.routine_cases hr).resolve_left hp with hs | hs | hs | hs | hs <;> cases hu : s.upos <;>
    rw [hs, hu] at e <;> exact (congrArg Regs.ss e :)

theorem permRegs (h : Twins s t) (hr : s.seq.isRoutine = true) (hu : s.upos = .perm) :
    t.dp.r.i = s.dp.r.i ∧ t.dp.r.j = s.dp.r.j := by
  have e := h.liveRegs
  rcases Phase.routine_cases hr with hs | hs | hs | hs | hs | hs <;> rw [hs, hu] at e <;>
    exact ⟨(congrArg Regs.i e :), (congrArg Regs.j e :)⟩

theorem groupRegs (h : Twins s t) (hr : s.seq.isRoutine = true) (hu : s.upos = .twld) :
    t.dp.r.g = s.dp.r.g ∧ t.dp.r.stride = s.dp.r.stride := by
  have e := h.liveRegs
  rcases Phase.routine_cases hr with hs | hs | hs | hs | hs | hs <;> rw [hs, hu] at e <;>
    exact ⟨(congrArg Regs.g e :), (congrArg Regs.stride e :)⟩

theorem pairRegs (h : Twins s t) (hr : s.seq.isRoutine = true) (hu : s.upos = .bfly) :
    t.dp.r.lo = s.dp.r.lo ∧ t.dp.r.hi = s.dp.r.hi := by
  have e := h.liveRegs
  rcases Phase.routine_cases hr with hs | hs | hs | hs | hs | hs <;> rw [hs, hu] at e <;>
    exact ⟨(congrArg Regs.lo e :), (congrArg Regs.hi e :)⟩

/-- In a loop over K the registers of the command, L and K are live. -/
theorem loopRegs (h : Twins s t)
    (hs : s.seq = .gChirp ∨ s.seq = .gCmod ∨ s.seq = .gBkern ∨ s.seq = .gPmul ∨ s.seq = .gWback) :
    t.dp.r.k = s.dp.r.k ∧ t.dp.r.n = s.dp.r.n ∧ t.dp.r.l = s.dp.r.l ∧ t.dp.r.s = s.dp.r.s := by
  have e := h.liveRegs
  rcases hs with hs | hs | hs | hs | hs <;> rw [hs] at e <;>
    exact ⟨(congrArg Regs.k e :), (congrArg Regs.n e :), (congrArg Regs.l e :), (congrArg Regs.s e :)⟩

/-- The micro-operation of a routine answers on both cores, and they agree on what it wrote. -/
theorem routineDp {nm : Num R} (h : Twins s t) (hr : s.seq.isRoutine = true) {d : Datapath R}
    (hd : Machine.routineDp nm s = .ok d) :
    ∃ e, Machine.routineDp nm t = .ok e ∧
      AgreeOn (withElems (fun m k => k < s.filled m) (memOf s.dp.r.msel) s.routineTouched) d e ∧
      (s.upos = .twld ∨ s.upos = .bfly → e.r.w = d.r.w) := by
  have hagree := h.agreeOn
  obtain ⟨hmsel, hnn⟩ := h.routineRegs hr
  have hlt : ∀ k ∈ s.routineTouched, k < s.filled (memOf s.dp.r.msel) :=
    fun k hk => h.seqWf.routine_filled hr (h.seqWf.routineTouched_lt hr k hk)
  unfold Machine.routineDp at hd ⊢
  unfold State.Of.routineTouched at hlt ⊢
  rw [h.place.2]
  obtain ⟨hw, ⟨-, hu, -⟩ | ⟨hp, -, ⟨hu, -⟩ | ⟨hu, -⟩⟩⟩ := h.seqWf.routine hr <;> simp only [hu] at hd hlt ⊢
  · obtain ⟨hi, hj⟩ := h.permRegs hr hu
    rw [hi, hj, hmsel]
    by_cases hij : s.dp.r.i < s.dp.r.j <;> simp only [hij, if_true, if_false] at hd hlt ⊢
    · obtain ⟨e, he, ha⟩ := hagree.swap (hlt _ (by simp)) (hlt _ (by simp)) hd
      exact ⟨e, he, ha, by simp⟩
    · obtain rfl := Except.ok.inj hd
      rw [withElems_nil]
      exact ⟨t.dp, rfl, hagree, by simp⟩
  · obtain ⟨hg, hstride⟩ := h.groupRegs hr hu
    obtain rfl := Except.ok.inj hd
    rw [withElems_nil]
    exact ⟨_, rfl, hagree.withRegs _ _, fun _ => by simp [tableIndex, hnn, h.signReg hr hp, hg, hstride]⟩
  · obtain ⟨hlo, hhi⟩ := h.pairRegs hr hu
    rw [hlo, hhi, hmsel]
    have hwr := h.w hr hu
    obtain ⟨e, he, ha⟩ := hagree.bfly hwr (hlt _ (by simp)) (hlt _ (by simp)) hd
    exact ⟨e, he, ha, fun _ => by rw [bfly_w hd, bfly_w he, hwr]⟩

/-- The micro-operation answers on both cores, and they agree on what it wrote. -/
theorem microDp {nm : Num R} (h : Twins s t) {d : Datapath R} (hd : Machine.microDp nm s = .ok d) :
    ∃ e, Machine.microDp nm t = .ok e ∧
      AgreeOn (withElems (fun m k => k < s.filled m) s.target s.touched) d e ∧
      (s.seq.isRoutine = true → s.upos = .twld ∨ s.upos = .bfly → e.r.w = d.r.w) := by
  have hagree := h.agreeOn
  have hloop := h.loopRegs
  have hseq := h.seqWf
  by_cases hr : s.seq.isRoutine = true
  · have hroutine : Machine.routineDp nm s = .ok d → _ := h.routineDp hr
    unfold Machine.microDp at hd ⊢
    unfold State.Of.target State.Of.touched
    rw [h.place.1]
    rcases Phase.routine_cases hr with hs | hs | hs | hs | hs | hs <;> simp only [hs] at hd ⊢ <;>
      exact (hroutine hd).imp fun _ he => ⟨he.1, he.2.1, fun _ => he.2.2⟩
  · unfold State.Of.SeqWf at hseq
    unfold Machine.microDp at hd ⊢
    unfold State.Of.target State.Of.touched
    rw [h.place.1]
    cases hs : s.seq <;> simp only [hs] at hd hr hseq hloop ⊢
    case idle =>
      obtain rfl := Except.ok.inj hd
      rw [withElems_nil]
      exact ⟨t.dp, rfl, hagree, nofun⟩
    case gLcalc =>
      obtain rfl := Except.ok.inj hd
      rw [withElems_nil]
      exact ⟨_, rfl, hagree.withRegs _ _, nofun⟩
    case gChirp =>
      obtain ⟨hk, hn, hl, hsg⟩ := hloop (by simp)
      obtain ⟨e, he, ha⟩ := hagree.chirpgen hk hn hsg hd
      exact ⟨e, he, ha, nofun⟩
    case gCmod =>
      obtain ⟨hb, -⟩ := hseq
      obtain ⟨hk, hn, -, -⟩ := hloop (by simp)
      obtain ⟨-, hN, -⟩ := h.seqWf.command hb
      obtain ⟨e, he, ha⟩ := hagree.cmod hk hn (fun hlt => by simp [State.Of.filled, hs, ← hN, hlt]) hd
      exact ⟨e, he, ha, nofun⟩
    case gBkern =>
      obtain ⟨hb, -, hkl, -⟩ := hseq
      obtain ⟨hk, hn, hl, -⟩ := hloop (by simp)
      obtain ⟨-, -, -, h2, -⟩ := h.seqWf.command hb
      obtain ⟨e, he, ha⟩ :=
        hagree.bkern hk hn hl (fun j hj => by simpa [State.Of.filled, hs] using hj) (by omega) hkl hd
      exact ⟨e, he, ha, nofun⟩
    case gPmul =>
      obtain ⟨-, -, hkl⟩ := hseq
      obtain ⟨hk, -⟩ := hloop (by simp)
      obtain ⟨e, he, ha⟩ :=
        hagree.pmul hk (by simpa [State.Of.filled, hs] using hkl) (by simpa [State.Of.filled, hs] using hkl) hd
      exact ⟨e, he, ha, nofun⟩
    case gWback =>
      obtain ⟨-, ⟨⟨⟨-, hpad⟩, -⟩, -⟩, hkn⟩ := hseq
      obtain ⟨hk, hn, hl, -⟩ := hloop (by simp)
      have hkl : s.dp.r.k < s.dp.r.l := by
        have := two_mul_lt_paddedLength s.dp.r.n
        omega
      obtain ⟨e, he, ha⟩ := hagree.wback hk hl (by simpa [State.Of.filled, hs] using hkl)
        (by simpa [State.Of.filled, hs] using hkn) hd
      exact ⟨e, he, ha, nofun⟩
    all_goals exact absurd rfl hr

/-- Two cores in step are in step again after a step of the sequencer. -/
theorem coreStep {nm : Num R} (h : Twins s t) (hb : s.busy = true) {s' : State.Of R}
    (hs : coreStepBy (perform nm) s = .next s') : ∃ t', coreStepBy (perform nm) t = .next t' ∧ Twins s' t' := by
  have hbt : t.busy = true := h.status.1.trans hb
  obtain ⟨d, hd, rfl⟩ := (coreStepBy_next_iff hb).1 hs
  obtain ⟨e, he, ha, hw⟩ := h.microDp hd
  have ht := (coreStepBy_next_iff hbt).2 ⟨e, he, rfl⟩
  refine ⟨_, ht, coreStepBy_seqWf h.seqWf hs, ?_, ?_, fun hr hu => ?_, fun m k hk => ?_⟩
  · rw [coreStepBy_skeleton hb hs, coreStepBy_skeleton hbt ht, controlStep_live, h.live, ← controlStep_live]
  · exact (advance_pfault _).trans ha.pfault
  · simp only [advance, redraw_seq, redraw_upos, redraw_r, advancePhase_w] at hr hu ⊢
    obtain ⟨hr', hu'⟩ := before_bfly hr hu
    exact hw hr' hu'
  · obtain ⟨hfilled, hdk⟩ := microDp_filled hd m
    rw [advance_mem, advance_mem]
    refine ha.get m k ?_
    have hk' : k < (advancePhase { s with dp := d }).filled m := by
      simpa only [advance, State.Of.filled, redraw_seq, redraw_r, redraw_cmdl] using hk
    rcases advancePhase_filled hk' with hlt | ⟨hf, rfl⟩
    · exact .inl (hlt.trans_eq hfilled)
    · have hf' : s.Fills m := hf
      obtain ⟨hm, hmem⟩ := hf'.touched
      exact .inr ⟨hm, hdk.symm ▸ hmem⟩

end Twins

/-! ## The start of the command -/

/-- What acceptance reads of a state. -/
def State.Of.acceptInput (s : State.Of R) : State.Of Unit :=
  { State.Of.resetWith (⟨(), ()⟩ : Cplx Unit) with
    cmdl := s.cmdl, done := s.done, err := s.err, ecode := s.ecode,
    dp := { Datapath.resetWith (⟨(), ()⟩ : Cplx Unit) with par := s.dp.par, pfault := s.dp.pfault } }

/-- In the first phase of a command no element of a hidden memory counts as written. -/
theorem filled_of_first {s : State.Of R} (hs : s.seq = .pPerm ∨ s.seq = .tPerm ∨ s.seq = .gLcalc) {m : MemId}
    (hm : m ≠ .dmem) : s.filled m = 0 := by
  cases m with
  | dmem => exact absurd rfl hm
  | amem | bmem | chtab => rcases hs with hs | hs | hs <;> simp [State.Of.filled, hs]

/-- The first phase of a command finds the same live registers whatever the core held before, and no BFLY is next. -/
theorem acceptCommand_first (s : State.Of R) :
    (acceptCommand s).skeleton.live = (acceptCommand s.acceptInput).skeleton.live ∧ (acceptCommand s).upos ≠ .bfly ∧
      ((acceptCommand s).seq = .pPerm ∨ (acceptCommand s).seq = .tPerm ∨ (acceptCommand s).seq = .gLcalc) := by
  by_cases h0 : BitVec.ofNat 2 (opField s.cmdl) = 0#2
  · rw [acceptCommand_permute h0, acceptCommand_permute (s := s.acceptInput) h0]
    exact ⟨rfl, nofun, .inl rfl⟩
  · by_cases h1 : BitVec.ofNat 2 (opField s.cmdl) = 1#2
    · rw [acceptCommand_pow2 h1, acceptCommand_pow2 (s := s.acceptInput) h1]
      exact ⟨rfl, nofun, .inr (.inl rfl)⟩
    · rw [acceptCommand_gen h0 h1, acceptCommand_gen (s := s.acceptInput) h0 h1]
      exact ⟨rfl, nofun, .inr (.inr rfl)⟩

/-- Two cores that accept one command are in step. -/
theorem Twins.of_accept {s t : State.Of R} (hseq : (acceptCommand s).SeqWf) (hin : s.acceptInput = t.acceptInput)
    (hp : s.dp.pfault = false)
    (hget : ∀ k, k < lenField s.cmdl → Mem.get t.dp.dmem k = Mem.get s.dp.dmem k) :
    Twins (acceptCommand s) (acceptCommand t) := by
  obtain ⟨hlive, hu, hfirst⟩ := acceptCommand_first s
  obtain ⟨⟨-, hpf, -⟩, hmem, -, -, hcmdl⟩ := acceptCommand_frame s
  obtain ⟨-, hmem', -⟩ := acceptCommand_frame t
  refine ⟨hseq, ?_, hpf.trans hp, fun _ h => absurd h hu, fun m k hk => ?_⟩
  · rw [hlive, (acceptCommand_first t).1, hin]
  · by_cases hm : m = .dmem
    · subst hm
      rw [hmem, hmem']
      rw [State.Of.filled, hcmdl] at hk
      exact hget k hk
    · rw [filled_of_first hfirst hm] at hk
      exact absurd hk (Nat.not_lt_zero k)

/-- What steps 5 to 8 of R197 do depends on the word and the capacities alone. -/
theorem checkCommand_two {s t : State.Of R} (hc : t.cmdl = s.cmdl) (hp : t.dp.par = s.dp.par) :
    (checkCommand s = completeCommand s ∧ checkCommand t = completeCommand t) ∨
      (∃ e, checkCommand s = errorCompletion e s ∧ checkCommand t = errorCompletion e t) ∨
      (checkCommand s = acceptCommand s ∧ checkCommand t = acceptCommand t) := by
  simp only [checkCommand, hc, hp]
  split_ifs
  · exact .inl ⟨rfl, rfl⟩
  · exact .inr (.inl ⟨_, rfl, rfl⟩)
  · exact .inr (.inl ⟨_, rfl, rfl⟩)
  · exact .inr (.inr ⟨rfl, rfl⟩)

/-- A command that is accepted passed the checks. -/
theorem acceptCommand_seqWf_of_check {s : State.Of R} (h3 : opField s.cmdl ≠ 3) (hb : s.busy = false)
    (h : checkCommand s = acceptCommand s) : (acceptCommand s).SeqWf := by
  have hbusy : (checkCommand s).busy = true := h ▸ (acceptCommand_status s).1
  rcases checkCommand_cases s with ⟨-, e⟩ | ⟨-, -, -, e⟩ | ⟨-, -, -, e⟩ | ⟨h2, hp, hn, hl, -⟩
  · rw [e] at hbusy; cases hbusy
  · rw [e, errorCompletion_busy, hb] at hbusy; cases hbusy
  · rw [e, errorCompletion_busy, hb] at hbusy; cases hbusy
  · exact acceptCommand_seqWf h3 h2 hp hn hl

/-! ## The runs -/

theorem step_of_no_script {s : State} (h : s.script = []) : step s = coreStepBy (perform numB64) s := by
  rw [step_eq]
  exact stepBy_nil h

theorem statusWord_congr {s t : State.Of R}
    (h : t.busy = s.busy ∧ t.done = s.done ∧ t.err = s.err ∧ t.ecode = s.ecode ∧ t.dp.pfault = s.dp.pfault) :
    statusWord t = statusWord s := by
  obtain ⟨h1, h2, h3, h4, h5⟩ := h
  simp only [statusWord, h1, h2, h3, h4, h5]

theorem run_succ_of_next {M : Host.Core} {s s' : M.State} (h : M.step s = .next s') (j : Nat) :
    M.run (j + 1) s = M.run j s' := by
  simp only [Host.Core.run, h]

theorem run_succ_next {M : Host.Core} {s u : M.State} {j : Nat} (h : M.run (j + 1) s = .next u) :
    ∃ s', M.step s = .next s' ∧ M.run j s' = .next u := by
  simp only [Host.Core.run] at h
  cases hs : M.step s with
  | next s' => exact ⟨s', rfl, by simpa only [hs] using h⟩
  | fault e => simp [hs] at h
  | refused e => simp [hs] at h

/-- An idle core without a host move stays as it is. -/
theorem run_idle {s : State} (hs : s.script = []) (hb : s.busy = false) (j : Nat) :
    Host.Core.run core j s = .next s := by
  induction j with
  | zero => rfl
  | succ j ih =>
    have h : core.step s = .next s := (step_of_no_script hs).trans (coreStepBy_idle hb)
    exact (run_succ_of_next h j).trans ih

/-- Two cores in step stay in step as long as the first one runs. -/
theorem Twins.run {s t : State} (h : Twins s t) (hs : s.script = []) (ht : t.script = []) {j : Nat} {u : State}
    (hu : Host.Core.run core j s = .next u) :
    ∃ v, Host.Core.run core j t = .next v ∧ Twins u v ∧ u.cmdl = s.cmdl := by
  induction j generalizing s t with
  | zero =>
    obtain rfl := Host.Outcome.next.inj hu
    exact ⟨t, rfl, h, rfl⟩
  | succ j ih =>
    cases hb : s.busy with
    | false =>
      have hbt : t.busy = false := h.status.1.trans hb
      rw [run_idle hs hb] at hu
      obtain rfl := Host.Outcome.next.inj hu
      exact ⟨t, run_idle ht hbt _, h, rfl⟩
    | true =>
      obtain ⟨s', hstep, hu⟩ := run_succ_next hu
      have hc : coreStepBy (perform numB64) s = .next s' := (step_of_no_script hs).symm.trans hstep
      obtain ⟨t', hct, h'⟩ := h.coreStep hb hc
      have hstep' : core.step t = .next t' := (step_of_no_script ht).trans hct
      obtain ⟨-, -, -, hcmdl, hscript⟩ := coreStepBy_frame hc
      obtain ⟨-, -, -, -, hscript'⟩ := coreStepBy_frame hct
      obtain ⟨v, hv, hT, hvc⟩ := ih h' (hscript.trans hs) (hscript'.trans ht) hu
      exact ⟨v, (run_succ_of_next hstep' j).trans hv, hT, hvc.trans hcmdl⟩

/-- What the host sees of the runs from `s` and from `t` is the same: the STATUS word after every step, and the first `n` elements
of DMEM at the end. -/
def SameRun (n : Nat) (s t : State) : Prop :=
  statusWord t = statusWord s ∧ ∀ j u, Host.Core.run core j s = .next u →
    ∃ v, Host.Core.run core j t = .next v ∧ statusWord v = statusWord u ∧
      (u.busy = false → ∀ k, k < n → Mem.get v.dp.dmem k = Mem.get u.dp.dmem k)

theorem Twins.sameRun {s t : State} (h : Twins s t) (hs : s.script = []) (ht : t.script = []) :
    SameRun (lenField s.cmdl) s t := by
  refine ⟨statusWord_congr h.status, fun j u hu => ?_⟩
  obtain ⟨v, hv, hT, hc⟩ := h.run hs ht hu
  exact ⟨v, hv, statusWord_congr hT.status, fun _ k hk => hT.get .dmem k (hk.trans_eq (congrArg lenField hc).symm)⟩

theorem sameRun_of_idle {n : Nat} {s t : State} (hs : s.script = []) (ht : t.script = []) (hbs : s.busy = false)
    (hst : t.busy = s.busy ∧ t.done = s.done ∧ t.err = s.err ∧ t.ecode = s.ecode ∧ t.dp.pfault = s.dp.pfault)
    (hget : ∀ k, k < n → Mem.get t.dp.dmem k = Mem.get s.dp.dmem k) : SameRun n s t := by
  refine ⟨statusWord_congr hst, fun j u hu => ?_⟩
  rw [run_idle hs hbs] at hu
  obtain rfl := Host.Outcome.next.inj hu
  exact ⟨t, run_idle ht (hst.1.trans hbs) j, statusWord_congr hst, fun _ => hget⟩

/-- A word that is not accepted ends at once on both cores, by the same completion; an accepted one runs on them in step. -/
theorem sameRun_of_legal {w : Word} {s t : State} (h3 : opField w ≠ 3) (hs : s.Ready) (ht : t.Ready) (hss : s.script = [])
    (hst : t.script = []) (hpar : t.dp.par = s.dp.par)
    (hget : ∀ k, k < lenField w → Mem.get t.dp.dmem k = Mem.get s.dp.dmem k) :
    SameRun (lenField w) (checkCommand (beginCommand w s)) (checkCommand (beginCommand w t)) := by
  obtain ⟨hbs, hps⟩ := hs
  obtain ⟨hbt, hpt⟩ := ht
  rcases checkCommand_two (s := beginCommand w s) (t := beginCommand w t) rfl hpar with
    ⟨e, e'⟩ | ⟨c, e, e'⟩ | ⟨e, e'⟩
  · rw [e, e']
    exact sameRun_of_idle hss hst rfl ⟨rfl, rfl, rfl, rfl, hpt.trans hps.symm⟩ hget
  · rw [e, e']
    exact sameRun_of_idle hss hst hbs ⟨hbt.trans hbs.symm, rfl, rfl, rfl, hpt.trans hps.symm⟩ hget
  · have hseq := acceptCommand_seqWf_of_check (s := beginCommand w s) h3 hbs e
    have hin : (beginCommand w s).acceptInput = (beginCommand w t).acceptInput := by
      simp [State.Of.acceptInput, hpar, hps, hpt]
    have hT := Twins.of_accept hseq hin hps hget
    obtain ⟨-, -, -, hsc, hcmdl⟩ := acceptCommand_frame (beginCommand w s)
    obtain ⟨-, -, -, hsc', -⟩ := acceptCommand_frame (beginCommand w t)
    have h := hT.sameRun (hsc.trans hss) (hsc'.trans hst)
    rw [hcmdl] at h
    rw [e, e']
    exact h

/-- Settles O23: an illegal word ends at once on both cores; for a legal one see `sameRun_of_legal`. -/
theorem hiddenStateDoesNotLeak : Obligations.HiddenStateDoesNotLeak := by
  intro w s1 s2 t1 h1 h2 hs1 hs2 hpar hget hcmd
  rw [commandWrite_eq] at hcmd ⊢
  have hget' : ∀ k, k < lenField w → Mem.get s2.dp.dmem k = Mem.get s1.dp.dmem k :=
    fun k hk => (hget k (lenField_eq w ▸ hk)).symm
  have key : ∃ t2, commandWriteBy (perform numB64) w s2 = .next t2 ∧ SameRun (lenField w) t1 t2 := by
    rcases commandWriteBy_eq_issue numB64 w with ⟨h3, e⟩ | e <;> rw [e] at hcmd ⊢
    · rw [issueLegal, issueCommand_ready h1.1 h1.2] at hcmd
      obtain rfl := Host.Outcome.next.inj hcmd
      exact ⟨_, issueCommand_ready h2.1 h2.2, sameRun_of_legal h3 h1 h2 hs1 hs2 hpar.symm hget'⟩
    · rw [issueIllegal, issueCommand_ready h1.1 h1.2] at hcmd
      obtain rfl := Host.Outcome.next.inj hcmd
      exact ⟨_, issueCommand_ready h2.1 h2.2,
        sameRun_of_idle hs1 hs2 h1.1 ⟨h2.1.trans h1.1.symm, rfl, rfl, rfl, h2.2.trans h1.2.symm⟩ hget'⟩
  rw [lenField_eq] at key
  exact key

end Sys2Proof.Machine
end

section
/-! Reads of unwritten elements by the micro-operations and the primitives (20_memory.md R57, 60_exceptions.md R208). -/

namespace Sys2Proof.Machine

variable {R : Type} {nm : Num R} {d : Datapath R}

/-- R57: the read of an unwritten element, no protocol fault against it, is a fault. -/
theorem memRead_unwritten {m : MemId} {k : Nat} (hk : k < d.size m) (hp : readable d m)
    (hu : Mem.get (d.mem m) k = none) : memRead nm m k d = .error .uninitialisedElement := by
  have hn : ¬ (d.pfault = true ∧ m = .dmem) := fun ⟨h1, h2⟩ => hp.elim (fun h => by simp [h] at h1) (· h2)
  simp [memRead, hk, hn, hu]

/-- A written element of a hidden memory reads, whatever PFAULT is. -/
theorem memRead_isSome {m : MemId} {k : Nat} (hk : k < d.size m) (hp : readable d m)
    (hw : (Mem.get (d.mem m) k).isSome = true) : ∃ v, memRead nm m k d = .ok v := by
  obtain ⟨v, hv⟩ := Option.isSome_iff_exists.1 hw
  exact ⟨v, memRead_written hk hp hv⟩

/-! ## An operation stops where its read stops -/

section Stops

variable {e : Fault}

theorem swap_of_first_error {m : MemSel} {a b : Nat} (h : memRead nm (memOf m) a d = .error e) :
    swap nm m a b d = .error e := by
  rw [swap, h, except_bind_error]

theorem swap_of_second_error {m : MemSel} {a b : Nat} {x : Cplx R} (hx : memRead nm (memOf m) a d = .ok x)
    (h : memRead nm (memOf m) b d = .error e) : swap nm m a b d = .error e := by
  rw [swap, hx, except_bind_ok, h, except_bind_error]

theorem bfly_of_high_error {m : MemSel} {lo hi : Nat} (h : memRead nm (memOf m) hi d = .error e) :
    bfly nm m lo hi d = .error e := by
  rw [bfly, h, except_bind_error]

theorem bfly_of_low_error {m : MemSel} {lo hi : Nat} {x : Cplx R} (hx : memRead nm (memOf m) hi d = .ok x)
    (h : memRead nm (memOf m) lo d = .error e) : bfly nm m lo hi d = .error e := by
  rw [bfly, hx, except_bind_ok, h, except_bind_error]

theorem cmod_of_chirp_error (hk : d.r.k < d.r.n) (h : memRead nm .chtab d.r.k d = .error e) :
    cmod nm d = .error e := by
  rw [cmod, if_pos hk, h, except_bind_error]

theorem cmod_of_input_error {c : Cplx R} (hk : d.r.k < d.r.n) (hc : memRead nm .chtab d.r.k d = .ok c)
    (h : memRead nm .dmem d.r.k d = .error e) : cmod nm d = .error e := by
  rw [cmod, if_pos hk, hc, except_bind_ok, h, except_bind_error]

theorem bkern_of_zero (hk : d.r.k = 0) : bkern nm d = memRead nm .chtab 0 d >>= fun c => writeZ .bmem c d := if_pos hk

theorem bkern_of_lt (h0 : 0 < d.r.k) (hk : d.r.k < d.r.n) :
    bkern nm d = memRead nm .chtab d.r.k d >>= fun c => writeZ .bmem (conj nm c) d :=
  (if_neg h0.ne').trans (if_pos hk)

theorem bkern_of_reflected (h0 : 0 < d.r.k) (hn : d.r.n ≤ d.r.k) (hk : d.r.l - d.r.n < d.r.k) :
    bkern nm d = memRead nm .chtab (d.r.l - d.r.k) d >>= fun c => writeZ .bmem (conj nm c) d :=
  (if_neg h0.ne').trans ((if_neg hn.not_gt).trans (if_pos hk))

theorem bkern_of_middle (h0 : 0 < d.r.k) (hn : d.r.n ≤ d.r.k) (hk : d.r.k ≤ d.r.l - d.r.n) :
    bkern nm d = writeZ .bmem (czero nm) d :=
  (if_neg h0.ne').trans ((if_neg hn.not_gt).trans (if_neg hk.not_gt))

theorem pmul_of_left_error (h : memRead nm .amem d.r.k d = .error e) : pmul nm d = .error e := by
  rw [pmul, h, except_bind_error]

theorem pmul_of_right_error {a : Cplx R} (ha : memRead nm .amem d.r.k d = .ok a)
    (h : memRead nm .bmem d.r.k d = .error e) : pmul nm d = .error e := by
  rw [pmul, ha, except_bind_ok, h, except_bind_error]

theorem wback_of_left_error (h : memRead nm .amem d.r.k d = .error e) : wback nm d = .error e := by
  rw [wback, h, except_bind_error]

theorem wback_of_chirp_error {a : Cplx R} (ha : memRead nm .amem d.r.k d = .ok a)
    (h : memRead nm .chtab d.r.k d = .error e) : wback nm d = .error e := by
  rw [wback, ha, except_bind_ok, h, except_bind_error]

theorem prim1_of_error {f : Cplx R → Cplx R} {dst a : COperand} (h : readOperand nm a d = .error e) :
    prim1 nm f dst a d = .error e := by
  rw [prim1, h, except_bind_error]

theorem prim2_of_left_error {f : Cplx R → Cplx R → Cplx R} {dst a b : COperand} (h : readOperand nm a d = .error e) :
    prim2 nm f dst a b d = .error e := by
  rw [prim2, h, except_bind_error]

theorem prim2_of_right_error {f : Cplx R → Cplx R → Cplx R} {dst a b : COperand} {x : Cplx R}
    (hx : readOperand nm a d = .ok x) (h : readOperand nm b d = .error e) : prim2 nm f dst a b d = .error e := by
  rw [prim2, hx, except_bind_ok, h, except_bind_error]

end Stops

end Sys2Proof.Machine
end

section
/-! The host's accesses (10_state.md R21, R22, 20_memory.md R52 to R54, R58, R63; 60_exceptions.md R209, R210), and the statements
of the family about them and about reads of unwritten elements. -/

namespace Sys2Proof.Machine

variable {R : Type}

/-- The next move of the host, when it is no WAIT, is the step. -/
theorem step_of_script {s : State} {m : HostMove F64} {rest : List (HostMove F64)} (h : s.script = m :: rest)
    (hm : waits m = false) : step s = hostMoveBy exec setupB64 m { s with script := rest } :=
  stepBy_move h (by simp [hm])

/-- The same, at a state whose script is written out. -/
theorem step_move (s : State) (m : HostMove F64) (rest : List (HostMove F64)) (hm : waits m = false) :
    step { s with script := m :: rest } = hostMoveBy exec setupB64 m { s with script := rest } :=
  step_of_script rfl hm

/-! ## A bus access is the access of its target -/

section Bus

variable {ex : Instr → State.Of R → Out R} {cf : Setup R} {s : State.Of R} {a len : Nat} {bs : List Byte}

theorem hostMoveBy_busWrite_reg {r : Nat} (h : busTarget s.dp.par a bs.length = some (.reg r)) :
    hostMoveBy ex cf (.busWrite a bs) s = registerWriteBy ex r (wordOfBytes bs) s := by
  simp [hostMoveBy, resolveBusWrite, h]

theorem hostMoveBy_busWrite_elem {k : Nat} (h : busTarget s.dp.par a bs.length = some (.elem k)) :
    hostMoveBy ex cf (.busWrite a bs) s = hostWrite k (elemOfBytes cf.image s.dp.par.layout bs) s := by
  simp [hostMoveBy, resolveBusWrite, h]

theorem hostMoveBy_busWrite_none (h : busTarget s.dp.par a bs.length = none) :
    hostMoveBy ex cf (.busWrite a bs) s = .refused .partialAccess := by
  simp [hostMoveBy, resolveBusWrite, h]

theorem hostMoveBy_busRead_reg {r : Nat} (h : busTarget s.dp.par a len = some (.reg r)) :
    hostMoveBy ex cf (.busRead a len) s = readRegister true r s := by
  simp [hostMoveBy, busRead, h]

theorem hostMoveBy_busRead_elem {k : Nat} (h : busTarget s.dp.par a len = some (.elem k)) :
    hostMoveBy ex cf (.busRead a len) s = hostRead cf true k s := by
  simp [hostMoveBy, busRead, h]

theorem hostMoveBy_busRead_none (h : busTarget s.dp.par a len = none) :
    hostMoveBy ex cf (.busRead a len) s = .refused .partialAccess := by
  simp [hostMoveBy, busRead, h]

end Bus

/-! ## What a bus access names (R52 to R54) -/

theorem busTarget_cmd (par : Params) {len : Nat} (hlen : len = 4) : busTarget par par.regBase len = some (.reg 0) := by
  simp [busTarget, hlen]

theorem busTarget_status (par : Params) {len : Nat} (hlen : len = 4) :
    busTarget par (par.regBase + 4) len = some (.reg 1) := by
  simp [busTarget, hlen]

/-- An element wider than a register is named by its address. -/
theorem busTarget_elem {par : Params} {k len : Nat} (h4 : 4 < par.layout.size) (hk : k < par.nmax)
    (hlen : len = par.layout.size) : busTarget par (par.dmemBase + par.layout.size * k) len = some (.elem k) := by
  have h0 : 0 < par.layout.size := by omega
  simp [busTarget, hlen, h4.ne', Nat.mul_div_cancel_left k h0, hk]

theorem busTarget_eq_none {par : Params} {a len : Nat}
    (hreg : ¬ (len = 4 ∧ (a = par.regBase ∨ a = par.regBase + 4)))
    (helem : ¬ (len = par.layout.size ∧ ∃ k, k < par.nmax ∧ a = par.dmemBase + par.layout.size * k)) :
    busTarget par a len = none := by
  unfold busTarget
  rw [if_neg fun h => hreg ⟨h.1, .inl h.2⟩, if_neg fun h => hreg ⟨h.1, .inr h.2⟩, if_neg]
  rintro ⟨hlen, hbase, hmod, hdiv⟩
  refine helem ⟨hlen, _, hdiv, ?_⟩
  have := Nat.div_add_mod (a - par.dmemBase) par.layout.size
  omega

/-! ## Numbers as bytes (R53) -/

theorem byteOf_succ (x j : Nat) : byteOf x (j + 1) = byteOf (x / 256) j := by
  rw [byteOf, byteOf, Nat.div_div_eq_div_mul, pow_succ']

theorem leBytes_eq_map (n x : Nat) : leBytes n x = (List.range n).map (byteOf x) := by
  induction n generalizing x with
  | zero => rfl
  | succ n ih =>
    have hrest : byteOf x ∘ Nat.succ = byteOf (x / 256) := funext fun j => byteOf_succ x j
    rw [leBytes, ih, List.range_succ_eq_map, List.map_cons, List.map_map, hrest]
    simp [byteOf]

/-- The bytes at these places are the low bytes of `x`: the number they make is `x` reduced to as many bytes. -/
theorem gather_eq_mod {bs : List Byte} {places : List Nat} {x : Nat}
    (h : ∀ j (hj : j < places.length), bs.getD places[j] 0 = byteOf x j) :
    gather bs places = x % 256 ^ places.length := by
  induction places generalizing x with
  | nil => simp [gather, leNat, Nat.mod_one]
  | cons o rest ih =>
    have hrest : gather bs rest = x / 256 % 256 ^ rest.length := ih fun j hj => by
      rw [← byteOf_succ]
      exact h (j + 1) (Nat.succ_lt_succ hj)
    have hhead : (bs.getD o 0).toNat = x % 256 := by
      rw [show bs.getD o 0 = byteOf x 0 from h 0 (Nat.succ_pos _)]
      simp [byteOf]
    calc gather bs (o :: rest) = (bs.getD o 0).toNat + 256 * gather bs rest := rfl
      _ = x % 256 + 256 * (x / 256 % 256 ^ rest.length) := by rw [hhead, hrest]
      _ = x % 256 ^ (rest.length + 1) := by rw [pow_succ', Nat.mod_mul]

theorem leNat_leBytes (n x : Nat) : leNat (leBytes n x) = x % 256 ^ n := by
  induction n generalizing x with
  | zero => simp [leBytes, leNat, Nat.mod_one]
  | succ n ih => rw [leBytes, leNat, ih, pow_succ', Nat.mod_mul, BitVec.toNat_ofNat]

/-- The word read back from its bytes. -/
@[simp] theorem wordOfBytes_wordBytes (w : Word) : wordOfBytes (wordBytes w) = w := by
  apply BitVec.eq_of_toNat_eq
  rw [wordOfBytes, wordBytes, leNat_leBytes, BitVec.toNat_ofNat]
  have := w.isLt
  omega

@[simp] theorem wordBytes_length (w : Word) : (wordBytes w).length = 4 := by simp [wordBytes, leBytes_eq_map]

/-! ## An element as bytes (R53) -/

theorem placeOf_getElem {l : List Nat} (h : l.Nodup) (j : Nat) (hj : j < l.length) : placeOf l[j] l = some j := by
  induction l generalizing j with
  | nil => cases hj
  | cons y rest ih =>
    obtain ⟨hy, hrest⟩ := List.nodup_cons.1 h
    cases j with
    | zero => simp [placeOf]
    | succ j =>
      have hj' : j < rest.length := Nat.lt_of_succ_lt_succ hj
      have hne : y ≠ rest[j] := fun e => hy (e ▸ List.getElem_mem hj')
      simp [placeOf, hne, ih hrest j hj']

theorem placeOf_eq_none {x : Nat} {l : List Nat} (h : x ∉ l) : placeOf x l = none := by
  induction l with
  | nil => rfl
  | cons y rest ih =>
    obtain ⟨hy, hrest⟩ := not_or.1 (mt List.mem_cons.2 h)
    simp [placeOf, Ne.symm hy, ih hrest]

@[simp] theorem elemBytes_length (g : Image R) (lay : ElemLayout) (v : Cplx R) :
    (elemBytes g lay v).length = lay.size := by
  simp [elemBytes]

theorem elemBytes_getD (g : Image R) {lay : ElemLayout} (v : Cplx R) {o : Nat} (ho : o < lay.size) :
    (elemBytes g lay v).getD o 0 = layoutByte lay (g.bits v.re) (g.bits v.im) o := by
  simp [elemBytes, List.getD_eq_getElem?_getD, ho]

/-- A layout with places of its own for each of the `c` bytes of both components keeps the low `c` bytes of both. -/
theorem elemOfBytes_elemBytes (g : Image R) {c : Nat} {lay : ElemLayout} (h : layoutWf c lay) (v : Cplx R) :
    elemOfBytes g lay (elemBytes g lay v) = ⟨g.ofBits (g.bits v.re % 256 ^ c), g.ofBits (g.bits v.im % 256 ^ c)⟩ := by
  obtain ⟨hre, him, hnd, hlt⟩ := h
  obtain ⟨hndre, hndim, hdisj⟩ := List.nodup_append.1 hnd
  have re : gather (elemBytes g lay v) lay.re = g.bits v.re % 256 ^ c := hre ▸ gather_eq_mod fun j hj => by
    rw [elemBytes_getD g v (hlt _ (List.mem_append_left _ (List.getElem_mem hj)))]
    simp [layoutByte, placeOf_getElem hndre j hj]
  have im : gather (elemBytes g lay v) lay.im = g.bits v.im % 256 ^ c := him ▸ gather_eq_mod fun j hj => by
    have hmem := List.getElem_mem hj
    have hnre : lay.im[j] ∉ lay.re := fun hr => hdisj _ hr _ hmem rfl
    rw [elemBytes_getD g v (hlt _ (List.mem_append_right _ hmem))]
    simp [layoutByte, placeOf_eq_none hnre, placeOf_getElem hndim j hj]
  rw [elemOfBytes, re, im]

/-- A binary64 component is its 8 bytes, so an element is read back from its bytes. -/
theorem elemOfBytes_elemBytes_b64 {lay : ElemLayout} (h : layoutWf 8 lay) (v : Cplx F64) :
    elemOfBytes setupB64.image lay (elemBytes setupB64.image lay v) = v := by
  have component : ∀ x : F64, BitVec.ofNat 64 (x.toNat % 256 ^ 8) = x := fun x => by
    rw [Nat.mod_eq_of_lt (show x.toNat < 256 ^ 8 from x.isLt), BitVec.ofNat_toNat, BitVec.setWidth_eq]
  rw [elemOfBytes_elemBytes setupB64.image h v]
  exact congrArg₂ Cplx.mk (component v.re) (component v.im)

/-! ## Element accesses of an idle core (R58, R63, R210) -/

section Elements

variable {cf : Setup R} {s : State.Of R} {k : Nat} {v : Cplx R}

theorem hostWrite_of_size_le (h : s.dp.par.nmax ≤ k) : hostWrite k v s = .refused .noSuchElement := if_pos h

theorem hostRead_of_size_le {b : Bool} (h : s.dp.par.nmax ≤ k) : hostRead cf b k s = .refused .noSuchElement := if_pos h

theorem hostWrite_idle (hb : s.busy = false) (hk : k < s.dp.par.nmax) :
    hostWrite k v s = onDatapath (memWrite .dmem k v) s := by
  simp [hostWrite, hk.not_ge, hb]

theorem hostRead_idle_of_ok {b : Bool} (hs : s.Ready) (hk : k < s.dp.par.nmax) (hv : memRead cf.num .dmem k s.dp = .ok v) :
    hostRead cf b k s = .next { s with rdata := elemAnswer cf s.dp.par.layout b v } := by
  simp [hostRead, hk.not_ge, hs.1, hv, redraw, hs.2]

theorem hostRead_idle_of_error {b : Bool} {e : Fault} (hb : s.busy = false) (hk : k < s.dp.par.nmax)
    (he : memRead cf.num .dmem k s.dp = .error e) : hostRead cf b k s = .fault e := by
  simp [hostRead, hk.not_ge, hb, he]

/-- R63: the read of a written element answers it and changes nothing. -/
theorem hostRead_written {b : Bool} (hs : s.Ready) (hk : k < s.dp.par.nmax) (hv : Mem.get s.dp.dmem k = some v) :
    hostRead cf b k s = .next { s with rdata := elemAnswer cf s.dp.par.layout b v } :=
  hostRead_idle_of_ok hs hk (memRead_written hk (.inl hs.2) hv)

/-- R57: the read of an unwritten element stops. -/
theorem hostRead_unwritten {b : Bool} (hs : s.Ready) (hk : k < s.dp.par.nmax) (hu : Mem.get s.dp.dmem k = none) :
    hostRead cf b k s = .fault .uninitialisedElement :=
  hostRead_idle_of_error hs.1 hk (memRead_unwritten hk (.inl hs.2) hu)

end Elements

/-- Settles O47: the write is one write of the memory, the read one read of it. -/
theorem hostAccessesElements : Obligations.HostAccessesElements := by
  refine ⟨fun s k v rest hs hk => ⟨fun h => ?_, fun h hv => ?_⟩, fun s k v rest hk => ⟨fun h => ?_, fun h => ?_⟩⟩
  · have hw := memWrite_eq (d := s.dp) (m := .dmem) v hk
    refine ⟨_, ?_, memWrite_get hw, rfl, rfl, rfl, rfl⟩
    rw [step_of_script h rfl]
    exact (hostWrite_idle (s := { s with script := rest }) hs.1 hk).trans (onDatapath_of_ok hw)
  · rw [step_of_script h rfl]
    exact hostRead_written hs hk hv
  · rw [step_of_script h rfl]
    exact hostWrite_of_size_le hk
  · rw [step_of_script h rfl]
    exact hostRead_of_size_le hk

/-- Settles O37: each operation stops where its first stopping read does, and the reads before it answer. -/
theorem unwrittenReadFaults : Obligations.UnwrittenReadFaults := by
  refine ⟨fun s m k j x hp hk hu => ?_, fun s m k l dst a x hp hk hu => ?_, fun s hp hkn hk => ?_, fun s => ?_,
    fun s hk => ?_, fun s k rest hp hb hk hu => ?_⟩
  · have hr := memRead_unwritten (nm := numB64) hk (.inl hp) hu
    exact ⟨onDatapath_of_error (swap_of_first_error hr), onDatapath_of_error (bfly_of_high_error hr), fun hj =>
      ⟨onDatapath_of_error (swap_of_second_error hj hr), onDatapath_of_error (bfly_of_low_error hj hr)⟩⟩
  · have hr : readOperand numB64 (.elem m k) s.dp = .error .uninitialisedElement :=
      memRead_unwritten hk (.inl hp) hu
    exact ⟨onDatapath_of_error (prim2_of_left_error hr), onDatapath_of_error (prim2_of_left_error hr),
      onDatapath_of_error (prim2_of_left_error hr), onDatapath_of_error (prim1_of_error hr),
      onDatapath_of_error (prim1_of_error hr), fun ha =>
      ⟨onDatapath_of_error (prim2_of_right_error ha hr), onDatapath_of_error (prim2_of_right_error ha hr),
        onDatapath_of_error (prim2_of_right_error ha hr)⟩⟩
  · refine ⟨fun hu => ?_, fun hc hu => ?_⟩
    · exact onDatapath_of_error (cmod_of_chirp_error hkn (memRead_unwritten (m := .chtab) hk (.inl hp) hu))
    · obtain ⟨c, hc⟩ := memRead_isSome (nm := numB64) (m := .chtab) hk (.inl hp) hc
      exact onDatapath_of_error (cmod_of_input_error hkn hc (memRead_unwritten (m := .dmem) hk (.inl hp) hu))
  · have stop : ∀ {k : Nat} {v : Cplx F64 → Cplx F64}, k < s.dp.par.nmax → Mem.get s.dp.chtab k = none →
        bkern numB64 s.dp = memRead numB64 .chtab k s.dp >>= (fun c => writeZ .bmem (v c) s.dp) →
        exec .bkern s = .fault .uninitialisedElement := fun hk hu e => by
      rw [memRead_unwritten (m := .chtab) hk (.inr (by decide)) hu, except_bind_error] at e
      exact onDatapath_of_error e
    exact ⟨fun h0 hk hu => stop (v := id) hk hu (bkern_of_zero h0),
      fun h0 hn hk hu => stop hk hu (bkern_of_lt h0 hn), fun h0 hn hl hk hu => stop hk hu (bkern_of_reflected h0 hn hl)⟩
  · have left := memRead_isSome (nm := numB64) (d := s.dp) (m := .amem) hk (.inr (by decide))
    refine ⟨fun hu => ?_, fun ha hu => ?_, fun ha hk' hu => ?_⟩
    · have hr := memRead_unwritten (nm := numB64) (m := .amem) hk (.inr (by decide)) hu
      exact ⟨onDatapath_of_error (pmul_of_left_error hr), onDatapath_of_error (wback_of_left_error hr)⟩
    · obtain ⟨a, ha⟩ := left ha
      exact onDatapath_of_error (pmul_of_right_error ha (memRead_unwritten (m := .bmem) hk (.inr (by decide)) hu))
    · obtain ⟨a, ha⟩ := left ha
      exact onDatapath_of_error (wback_of_chirp_error ha (memRead_unwritten (m := .chtab) hk' (.inr (by decide)) hu))
  · refine ⟨fun h => ?_, fun a len ht h => ?_⟩
    · rw [step_of_script h rfl]
      exact hostRead_unwritten ⟨hb, hp⟩ hk hu
    · rw [step_of_script h rfl, hostMoveBy_busRead_elem (s := { s with script := rest }) ht]
      exact hostRead_unwritten ⟨hb, hp⟩ hk hu

/-- Settles O50: by what the bus access names, and by the bytes of a layout with places of its own for each component. -/
theorem busImage : Obligations.BusImage := by
  refine ⟨fun s k a v rest hk hlay ha => ?_, fun s w rest => ?_, fun s a bs rest hreg helem => ?_, fun v => ?_⟩
  · subst ha
    have h4 : 4 < s.dp.par.layout.size := by have := layoutWf_size hlay; omega
    refine ⟨?_, fun hs hv => ?_, elemOfBytes_elemBytes_b64 hlay v⟩
    · rw [step_move _ _ _ rfl, step_move _ _ _ rfl,
        hostMoveBy_busWrite_elem (s := { s with script := rest }) (busTarget_elem h4 hk (elemBytes_length ..))]
      exact congrArg (hostWrite k · { s with script := rest }) (elemOfBytes_elemBytes_b64 hlay v)
    · rw [step_move _ _ _ rfl, hostMoveBy_busRead_elem (s := { s with script := rest }) (busTarget_elem h4 hk rfl)]
      exact hostRead_written hs hk hv
  · refine ⟨?_, ?_, ?_⟩ <;> rw [step_move _ _ _ rfl]
    · exact hostMoveBy_busRead_reg (s := { s with script := rest }) (busTarget_cmd s.dp.par rfl)
    · exact hostMoveBy_busRead_reg (s := { s with script := rest }) (busTarget_status s.dp.par rfl)
    · exact hostMoveBy_busWrite_reg (s := { s with script := rest }) (busTarget_status s.dp.par (wordBytes_length w))
  · have hn := busTarget_eq_none hreg helem
    refine ⟨?_, ?_⟩ <;> rw [step_move _ _ _ rfl]
    · exact hostMoveBy_busRead_none hn
    · exact hostMoveBy_busWrite_none hn
  · rw [leBytes_eq_map, leBytes_eq_map]
    rfl

/-! ## The write of a command word (R65, R197) -/

theorem commandWriteBy_of_ok {ex : Instr → State.Of R → Out R} {w : Word} {i : Instr} (h : decode w = .ok i)
    (s : State.Of R) : commandWriteBy ex w s = ex i s := by simp [commandWriteBy, h]

theorem commandWriteBy_of_error {ex : Instr → State.Of R → Out R} {w : Word} {e : Illegal} (h : decode w = .error e)
    (s : State.Of R) : commandWriteBy ex w s = issueIllegal w s := by simp [commandWriteBy, h]

/-- A command word of all 32 bits is the word itself. -/
theorem tableWord_toNat (w : Word) : tableWord 32 w.toNat = w := by
  rw [tableWord, Nat.mod_eq_of_lt w.isLt, BitVec.ofNat_toNat, BitVec.setWidth_eq]

/-- Settles O8: each of the three forms of the move is the write of the word to CMD. -/
theorem stepRunsDecodedCommand : Obligations.StepRunsDecodedCommand := by
  intro s w rest h
  have hstep : step s = commandWriteBy exec w { s with script := rest } := step_of_script h rfl
  refine ⟨fun i hi => ?_, fun e he => ?_, ?_, ?_⟩
  · rw [hstep, commandWriteBy_of_ok hi]
  · rw [hstep, commandWriteBy_of_error he]
  · rw [step_move _ _ _ rfl, hostMoveBy_busWrite_reg (s := { s with script := rest })
      (busTarget_cmd s.dp.par (wordBytes_length w)), wordOfBytes_wordBytes, hstep]
    rfl
  · rw [State.withFetchWord, tableWord_toNat, hstep]
    exact step_move s (.regWrite 0 w) rest rfl

/-! ## What an access of the host leaves of the memories and of BUSY (R60, R209) -/

/-- The two states have the same memories and the same BUSY. -/
abbrev sameMemsBusy (s t : State.Of R) : Prop := (∀ m, t.dp.mem m = s.dp.mem m) ∧ t.busy = s.busy

theorem protocolFault_mems (s : State.Of R) (m : MemId) : (protocolFault s).dp.mem m = s.dp.mem m := by
  cases m <;> rfl

section Frame

variable {cf : Setup R} {s t : State.Of R}

theorem readRegister_mems {b : Bool} {r : Nat} (h : readRegister b r s = .next t) : sameMemsBusy s t := by
  unfold readRegister at h
  split at h
  · obtain rfl := Host.Outcome.next.inj h
    exact ⟨fun _ => rfl, rfl⟩
  · split at h
    · obtain rfl := Host.Outcome.next.inj h
      exact ⟨fun _ => rfl, rfl⟩
    · cases h

theorem hostRead_mems {b : Bool} {k : Nat} (h : hostRead cf b k s = .next t) : sameMemsBusy s t := by
  unfold hostRead at h
  split at h
  · cases h
  · split at h
    · obtain rfl := Host.Outcome.next.inj h
      exact ⟨protocolFault_mems s, rfl⟩
    · split at h
      · obtain rfl := Host.Outcome.next.inj h
        exact ⟨redraw_mem s, redraw_busy s⟩
      · cases h

theorem hostWrite_mems {k : Nat} {v : Cplx R} (h : hostWrite k v s = .next t) :
    (∀ m k', Mem.get (t.dp.mem m) k' = Mem.get (s.dp.mem m) k' ∨ (m = .dmem ∧ k' = k)) ∧ t.busy = s.busy := by
  unfold hostWrite at h
  split at h
  · cases h
  · split at h
    · obtain rfl := Host.Outcome.next.inj h
      exact ⟨fun m k' => .inl (by rw [protocolFault_mems]), rfl⟩
    · obtain ⟨d, hd, rfl⟩ := onDatapath_next_iff.1 h
      refine ⟨fun m k' => ?_, rfl⟩
      rw [memWrite_get hd m k']
      by_cases hk : m = .dmem ∧ k' = k
      · exact .inr hk
      · exact .inl (if_neg hk)

theorem issueCommand_mems {w : Word} {rest : State.Of R → State.Of R}
    (hrest : ∀ m, (rest (beginCommand w s)).dp.mem m = s.dp.mem m) (h : issueCommand w rest s = .next t) :
    ∀ m, t.dp.mem m = s.dp.mem m := by
  rcases issueCommand_cases w rest s with ⟨-, e⟩ | ⟨-, -, e⟩ | ⟨-, -, e⟩ <;> rw [e] at h
  · cases h
  · obtain rfl := Host.Outcome.next.inj h
    exact protocolFault_mems s
  · obtain rfl := Host.Outcome.next.inj h
    exact hrest

/-- A register write touches no memory, and only a write to CMD can change BUSY. -/
theorem registerWriteBy_mems {nm : Num R} {r : Nat} {w : Word} (h : registerWriteBy (perform nm) r w s = .next t) :
    (∀ m, t.dp.mem m = s.dp.mem m) ∧ (t.busy = s.busy ∨ r = 0) := by
  unfold registerWriteBy writeOtherRegister at h
  split at h
  · refine ⟨?_, .inr ‹_›⟩
    rcases commandWriteBy_eq_issue nm w with ⟨-, e⟩ | e <;> rw [e s] at h
    · obtain ⟨-, hmem, -⟩ := checkCommand_frame (beginCommand w s)
      exact issueCommand_mems hmem h
    · exact issueCommand_mems (fun _ => rfl) h
  · split at h
    · obtain rfl := Host.Outcome.next.inj h
      exact ⟨fun _ => rfl, .inl rfl⟩
    · cases h

/-- The move writes element `k` of DMEM, as an access of the element or of its bytes. -/
def HostMove.writesElem (par : Params) (k : Nat) (m : HostMove R) : Prop :=
  (∃ v, m = .hwrite k v) ∨ ∃ a bs, m = .busWrite a bs ∧ busTarget par a bs.length = some (.elem k)

/-- The move writes CMD, as an access of the register or of its bytes. -/
def HostMove.writesCmd (par : Params) (m : HostMove R) : Prop :=
  (∃ w, m = .regWrite 0 w) ∨ ∃ a bs, m = .busWrite a bs ∧ busTarget par a bs.length = some (.reg 0)

/-- What the move may change of the memories, and when it may change BUSY, at an idle core. -/
abbrev IdleMove (mv : HostMove R) (s t : State.Of R) : Prop :=
  (∀ m k, Mem.get (t.dp.mem m) k = Mem.get (s.dp.mem m) k ∨ mv = .reset ∨ (m = .dmem ∧ mv.writesElem s.dp.par k)) ∧
    (t.busy = false ∨ mv.writesCmd s.dp.par)

theorem IdleMove.of_same {mv : HostMove R} (hb : s.busy = false) (h : sameMemsBusy s t) : IdleMove mv s t :=
  ⟨fun m k => .inl (by rw [h.1 m]), .inl (h.2.trans hb)⟩

theorem IdleMove.of_hostWrite {mv : HostMove R} {k : Nat} {v : Cplx R} (hb : s.busy = false)
    (hm : mv.writesElem s.dp.par k) (h : hostWrite k v s = .next t) : IdleMove mv s t := by
  obtain ⟨hmem, hbusy⟩ := hostWrite_mems h
  exact ⟨fun m k' => (hmem m k').imp_right fun ⟨hd, hk⟩ => .inr ⟨hd, hk ▸ hm⟩, .inl (hbusy.trans hb)⟩

theorem IdleMove.of_registerWrite {mv : HostMove R} {nm : Num R} {r : Nat} {w : Word} (hb : s.busy = false)
    (hm : r = 0 → mv.writesCmd s.dp.par) (h : registerWriteBy (perform nm) r w s = .next t) : IdleMove mv s t := by
  obtain ⟨hmem, hbusy⟩ := registerWriteBy_mems h
  exact ⟨fun m k => .inl (by rw [hmem m]), hbusy.imp (·.trans hb) hm⟩

/-- R60, R209: the moves of the host at an idle core, one by one. -/
theorem hostMoveBy_idle {mv : HostMove R} (hb : s.busy = false) (h : hostMoveBy (perform cf.num) cf mv s = .next t) :
    IdleMove mv s t := by
  cases mv with
  | hwrite k v => exact .of_hostWrite hb (.inl ⟨v, rfl⟩) h
  | hread k => exact .of_same hb (hostRead_mems h)
  | regWrite r w => exact .of_registerWrite hb (fun hr => .inl ⟨w, hr ▸ rfl⟩) h
  | regRead r => exact .of_same hb (readRegister_mems h)
  | busWrite a bs =>
    cases ht : busTarget s.dp.par a bs.length with
    | none => rw [hostMoveBy_busWrite_none ht] at h; cases h
    | some x =>
      cases x with
      | reg r =>
        rw [hostMoveBy_busWrite_reg ht] at h
        exact .of_registerWrite hb (fun hr => .inr ⟨a, bs, rfl, hr ▸ ht⟩) h
      | elem k =>
        rw [hostMoveBy_busWrite_elem ht] at h
        exact .of_hostWrite hb (.inr ⟨a, bs, rfl, ht⟩) h
  | busRead a len =>
    cases ht : busTarget s.dp.par a len with
    | none => rw [hostMoveBy_busRead_none ht] at h; cases h
    | some x =>
      cases x with
      | reg r => exact .of_same hb (readRegister_mems ((hostMoveBy_busRead_reg ht).symm.trans h))
      | elem k => exact .of_same hb (hostRead_mems ((hostMoveBy_busRead_elem ht).symm.trans h))
  | wait =>
    obtain rfl := Host.Outcome.next.inj h
    exact .of_same hb ⟨fun _ => rfl, rfl⟩
  | tick =>
    obtain rfl := Host.Outcome.next.inj ((coreStepBy_idle hb).symm.trans h)
    exact .of_same hb ⟨fun _ => rfl, rfl⟩
  | reset =>
    obtain rfl := Host.Outcome.next.inj h
    exact ⟨fun _ _ => .inr (.inl rfl), .inl rfl⟩

end Frame

/-- Settles O58: with no move left an idle core stays as it is; else by the move of the host. -/
theorem idleCoreTouchesNoMemory : Obligations.IdleCoreTouchesNoMemory := by
  intro s t hb ht
  rw [step_eq] at ht
  cases hs : s.script with
  | nil =>
    rw [stepBy_nil hs, coreStepBy_idle hb] at ht
    obtain rfl := Host.Outcome.next.inj ht
    exact ⟨fun _ _ => .inl rfl, fun h => absurd (hb.symm.trans h) nofun⟩
  | cons mv rest =>
    rw [stepBy_move hs (by simp [hb])] at ht
    obtain ⟨hmem, hbusy⟩ := hostMoveBy_idle (cf := setupB64) (s := { s with script := rest }) hb ht
    refine ⟨fun m k => ?_, fun h => ⟨mv, rest, rfl, hbusy.resolve_left (by simp [h])⟩⟩
    rcases hmem m k with h | rfl | ⟨hm, ⟨v, rfl⟩ | ⟨a, bs, rfl, hbt⟩⟩
    · exact .inl h
    · exact .inr (.inl ⟨rest, rfl⟩)
    · exact .inr (.inr ⟨hm, rest, .inl ⟨v, rfl⟩⟩)
    · exact .inr (.inr ⟨hm, rest, .inr ⟨a, bs, rfl, hbt⟩⟩)

end Sys2Proof.Machine
end

section
/-! Where the sequencer can stop (20_memory.md R57, R58; 10_state.md R35). -/

namespace Sys2Proof.Machine

variable {R : Type} {s : State.Of R}

/-! ## The elements a phase reads exist, and the hidden ones among them are written -/

/-- R58: the elements that the rest of the command may read are elements of the memory. -/
theorem State.Of.SeqWf.filled_le_size (h : s.SeqWf) (hb : s.busy = true) (m : MemId) : s.filled m ≤ s.dp.size m := by
  obtain ⟨-, hn, -, -, hmax⟩ := h.command hb
  have padded : s.PaddedWf → s.dp.r.l ≤ s.dp.par.lmax := fun ⟨⟨_, _, hl⟩, e⟩ => e ▸ hl
  unfold State.Of.SeqWf at h
  cases hs : s.seq <;> simp only [hs] at h
  case idle | pPerm | tPerm | tStages | gLcalc =>
    cases m <;> simp only [State.Of.filled, Datapath.size, hs] <;> omega
  case gChirp =>
    obtain ⟨-, -, hk, -⟩ := h
    cases m <;> simp only [State.Of.filled, Datapath.size, hs] <;> omega
  case gCmod | gBkern =>
    obtain ⟨-, ⟨hp, -⟩, hk, -⟩ := h
    have hl := padded hp
    cases m <;> simp only [State.Of.filled, Datapath.size, hs] <;> omega
  all_goals
    obtain ⟨-, ⟨⟨hp, -⟩, -⟩, -⟩ := h
    have hl := padded hp
    cases m <;> simp only [State.Of.filled, Datapath.size, hs] <;> omega

/-- R35: the elements of a hidden memory that the rest of the command may read are written. -/
theorem State.Of.SeqWf.filled_written (h : s.SeqWf) {m : MemId} (hm : m ≠ .dmem) :
    writtenBelow (s.dp.mem m) (s.filled m) := by
  have below0 : ∀ x : Mem R, writtenBelow x 0 := fun _ _ hk => absurd hk (Nat.not_lt_zero _)
  unfold State.Of.SeqWf at h
  cases m with
  | dmem => exact absurd rfl hm
  | chtab =>
    simp only [State.Of.filled, Datapath.mem]
    cases hs : s.seq <;> simp only [hs] at h ⊢
    case idle | pPerm | tPerm | tStages | gLcalc => exact below0 _
    case gChirp =>
      obtain ⟨-, -, -, hc⟩ := h
      exact hc
    case gCmod | gBkern =>
      obtain ⟨-, ⟨-, hc⟩, -⟩ := h
      exact hc
    all_goals
      obtain ⟨-, ⟨⟨-, hc⟩, -⟩, -⟩ := h
      exact hc
  | amem =>
    simp only [State.Of.filled, Datapath.mem]
    cases hs : s.seq <;> simp only [hs] at h ⊢
    case gCmod =>
      obtain ⟨-, -, -, ha⟩ := h
      exact ha
    case gBkern =>
      obtain ⟨-, -, -, ha, -⟩ := h
      exact ha
    case gFfta | gFftb | gPmul | gIffta | gWback =>
      obtain ⟨-, ⟨-, ha, -⟩, -⟩ := h
      exact ha
    all_goals exact below0 _
  | bmem =>
    simp only [State.Of.filled, Datapath.mem]
    cases hs : s.seq <;> simp only [hs] at h ⊢
    case gBkern =>
      obtain ⟨-, -, -, -, hw⟩ := h
      exact hw
    case gFfta | gFftb | gPmul | gIffta | gWback =>
      obtain ⟨-, ⟨-, -, hw⟩, -⟩ := h
      exact hw
    all_goals exact below0 _

/-! ## An operation that stops on unwritten input alone -/

/-- The operation, done on the datapath of `s`, answers, or it stops on an element of DMEM[0..N-1] that is not written. -/
def State.Of.StopsOnInput {α : Type} (s : State.Of R) (x : Except Fault α) : Prop :=
  (∃ a, x = .ok a) ∨
    (x = .error .uninitialisedElement ∧ s.dp.pfault = false ∧ ∃ k, k < s.dp.r.n ∧ Mem.get s.dp.dmem k = none)

theorem State.Of.StopsOnInput.bind {α β : Type} {x : Except Fault α} {f : α → Except Fault β} (hx : s.StopsOnInput x)
    (hf : ∀ a, s.StopsOnInput (f a)) : s.StopsOnInput (x >>= f) := by
  rcases hx with ⟨a, rfl⟩ | ⟨rfl, hin⟩
  · exact hf a
  · exact .inr ⟨rfl, hin⟩

/-- A write at an index of the memory does not stop. -/
theorem State.Of.StopsOnInput.of_memWrite {m : MemId} {k : Nat} {d : Datapath R} (v : Cplx R) (hk : k < d.size m) :
    s.StopsOnInput (memWrite m k v d) := .inl ⟨_, memWrite_eq v hk⟩

theorem State.Of.StopsOnInput.of_writeZ {m : MemId} (v : Cplx R) (hk : s.dp.r.k < s.dp.size m) :
    s.StopsOnInput (writeZ m v s.dp) := .inl ⟨_, writeZ_eq v hk⟩

section Sequencer

variable {nm : Num R} (h : s.SeqWf) (hb : s.busy = true)

include h hb

theorem State.Of.SeqWf.lt_size {m : MemId} {k : Nat} (hk : k < s.filled m) : k < s.dp.size m :=
  hk.trans_le (h.filled_le_size hb m)

/-- A read of an element that the rest of the command may read stops on unwritten input alone. -/
theorem State.Of.SeqWf.memRead_stopsOnInput {m : MemId} {k : Nat} (hk : k < s.filled m) :
    s.StopsOnInput (memRead nm m k s.dp) := by
  rcases memRead_cases nm m k s.dp with ⟨hle, -⟩ | ⟨-, -, -, e⟩ | ⟨-, hp, hu, e⟩ | ⟨-, -, v, -, e⟩
  · exact absurd (h.lt_size hb hk) hle.not_gt
  · exact .inl ⟨_, e⟩
  · by_cases hm : m = .dmem
    · subst hm
      obtain ⟨-, hn, -⟩ := h.command hb
      exact .inr ⟨e, Bool.eq_false_iff.2 fun hpf => hp ⟨hpf, rfl⟩, k, hn ▸ hk, hu⟩
    · have hw := h.filled_written hm k hk
      rw [hu] at hw
      cases hw
  · exact .inl ⟨v, e⟩

theorem State.Of.SeqWf.swap_stopsOnInput {m : MemSel} {a b : Nat} (ha : a < s.filled (memOf m))
    (hb' : b < s.filled (memOf m)) : s.StopsOnInput (swap nm m a b s.dp) := by
  rcases h.memRead_stopsOnInput (nm := nm) hb ha with ⟨x, hx⟩ | ⟨e, hin⟩
  · rcases h.memRead_stopsOnInput (nm := nm) hb hb' with ⟨y, hy⟩ | ⟨e, hin⟩
    · exact .inl ⟨_, swap_of_reads hx hy (h.lt_size hb ha) (h.lt_size hb hb')⟩
    · exact .inr ⟨swap_of_second_error hx e, hin⟩
  · exact .inr ⟨swap_of_first_error e, hin⟩

theorem State.Of.SeqWf.bfly_stopsOnInput {m : MemSel} {lo hi : Nat} (hlo : lo < s.filled (memOf m))
    (hhi : hi < s.filled (memOf m)) : s.StopsOnInput (bfly nm m lo hi s.dp) := by
  rcases h.memRead_stopsOnInput (nm := nm) hb hhi with ⟨x, hx⟩ | ⟨e, hin⟩
  · rcases h.memRead_stopsOnInput (nm := nm) hb hlo with ⟨y, hy⟩ | ⟨e, hin⟩
    · exact .inl ⟨_, bfly_of_reads hx hy (h.lt_size hb hlo) (h.lt_size hb hhi)⟩
    · exact .inr ⟨bfly_of_low_error hx e, hin⟩
  · exact .inr ⟨bfly_of_high_error e, hin⟩

/-- Inside a routine: the elements of the micro-operation are below the length of the routine. -/
theorem State.Of.SeqWf.routineDp_stopsOnInput (hr : s.seq.isRoutine = true) : s.StopsOnInput (routineDp nm s) := by
  have filled : ∀ k ∈ s.routineTouched, k < s.filled (memOf s.dp.r.msel) := fun k hk =>
    h.routine_filled hr (h.routineTouched_lt hr k hk)
  unfold routineDp
  unfold State.Of.routineTouched at filled
  cases hu : s.upos <;> simp only [hu] at filled ⊢
  case single => exact .inl ⟨_, rfl⟩
  case twld => exact .inl ⟨_, rfl⟩
  case bfly => exact h.bfly_stopsOnInput hb (filled _ (by simp)) (filled _ (by simp))
  case perm =>
    by_cases hij : s.dp.r.i < s.dp.r.j <;> simp only [hij, if_true, if_false] at filled ⊢
    · exact h.swap_stopsOnInput hb (filled _ (by simp)) (filled _ (by simp))
    · exact .inl ⟨_, rfl⟩

theorem State.Of.SeqWf.chirpgen_stopsOnInput (hs : s.seq = .gChirp) : s.StopsOnInput (chirpgen nm s.dp) := by
  obtain ⟨-, -, -, -, hmax⟩ := h.command hb
  simp only [State.Of.SeqWf, hs] at h
  obtain ⟨-, -, hk, -⟩ := h
  exact .of_memWrite _ (hk.trans_le hmax)

theorem State.Of.SeqWf.cmod_stopsOnInput (hs : s.seq = .gCmod) : s.StopsOnInput (cmod nm s.dp) := by
  have read := fun {m k} => h.memRead_stopsOnInput hb (nm := nm) (m := m) (k := k)
  obtain ⟨-, hn, -⟩ := h.command hb
  simp only [State.Of.SeqWf, hs] at h
  obtain ⟨-, ⟨⟨⟨-, -, hl⟩, e⟩, -⟩, hk, -⟩ := h
  have write := fun v => State.Of.StopsOnInput.of_writeZ (m := .amem) v (hk.trans_le (e ▸ hl))
  unfold cmod
  split
  · refine (read ?_).bind fun c => (read ?_).bind fun x => write _
    · simpa [State.Of.filled, hs]
    · simpa [State.Of.filled, ← hn]
  · exact write _

/-- R174: the reflected index is below N. -/
theorem State.Of.SeqWf.bkern_stopsOnInput (hs : s.seq = .gBkern) : s.StopsOnInput (bkern nm s.dp) := by
  have read : ∀ {k}, k < s.dp.r.n → s.StopsOnInput (memRead nm .chtab k s.dp) := fun hk =>
    h.memRead_stopsOnInput hb (by simpa [State.Of.filled, hs])
  obtain ⟨-, -, -, h2, -⟩ := h.command hb
  simp only [State.Of.SeqWf, hs] at h
  obtain ⟨-, ⟨⟨⟨-, -, hl⟩, e⟩, -⟩, hk, -⟩ := h
  have write := fun v => State.Of.StopsOnInput.of_writeZ (m := .bmem) v (hk.trans_le (e ▸ hl))
  rcases Nat.eq_zero_or_pos s.dp.r.k with h0 | h0
  · rw [bkern_of_zero h0]
    exact (read (by omega)).bind fun c => write _
  · rcases Nat.lt_or_ge s.dp.r.k s.dp.r.n with hkn | hkn
    · rw [bkern_of_lt h0 hkn]
      exact (read hkn).bind fun c => write _
    · rcases Nat.lt_or_ge (s.dp.r.l - s.dp.r.n) s.dp.r.k with hr | hr
      · rw [bkern_of_reflected h0 hkn hr]
        exact (read (by omega)).bind fun c => write _
      · rw [bkern_of_middle h0 hkn hr]
        exact write _

theorem State.Of.SeqWf.pmul_stopsOnInput (hs : s.seq = .gPmul) : s.StopsOnInput (pmul nm s.dp) := by
  have hk : s.dp.r.k < s.dp.r.l := by
    simp only [State.Of.SeqWf, hs] at h
    obtain ⟨-, -, hk⟩ := h
    exact hk
  have ha : s.dp.r.k < s.filled .amem := by simpa [State.Of.filled, hs]
  have hb' : s.dp.r.k < s.filled .bmem := by simpa [State.Of.filled, hs]
  exact (h.memRead_stopsOnInput hb ha).bind fun a => (h.memRead_stopsOnInput hb hb').bind fun b =>
    .of_writeZ _ (h.lt_size hb ha)

theorem State.Of.SeqWf.wback_stopsOnInput (hs : s.seq = .gWback) : s.StopsOnInput (wback nm s.dp) := by
  obtain ⟨-, hn, -⟩ := h.command hb
  have hk : s.dp.r.k < s.dp.r.n ∧ s.dp.r.l = paddedLength s.dp.r.n := by
    simp only [State.Of.SeqWf, hs] at h
    obtain ⟨-, ⟨⟨⟨-, hl⟩, -⟩, -⟩, hk⟩ := h
    exact ⟨hk, hl⟩
  have ha : s.dp.r.k < s.filled .amem := by
    have := two_mul_lt_paddedLength s.dp.r.n
    simp only [State.Of.filled, hs]
    omega
  have hc : s.dp.r.k < s.filled .chtab := by simpa [State.Of.filled, hs] using hk.1
  have hd : s.dp.r.k < s.filled .dmem := by simpa [State.Of.filled, ← hn] using hk.1
  refine (h.memRead_stopsOnInput hb ha).bind fun a => (h.memRead_stopsOnInput hb hc).bind fun c => .of_memWrite _ ?_
  simpa using h.lt_size hb hd

/-- R57, R58: the micro-operation of a step stops on unwritten input alone. -/
theorem State.Of.SeqWf.microDp_stopsOnInput : s.StopsOnInput (microDp nm s) := by
  unfold microDp
  cases hs : s.seq
  case idle => exact .inl ⟨_, rfl⟩
  case gLcalc => exact .inl ⟨_, rfl⟩
  case gChirp => exact h.chirpgen_stopsOnInput hb hs
  case gCmod => exact h.cmod_stopsOnInput hb hs
  case gBkern => exact h.bkern_stopsOnInput hb hs
  case gPmul => exact h.pmul_stopsOnInput hb hs
  case gWback => exact h.wback_stopsOnInput hb hs
  all_goals exact h.routineDp_stopsOnInput hb (by rw [hs]; rfl)

end Sequencer

/-- Settles O56: the step stops where its micro-operation stops. -/
theorem sequencerStopsOnlyOnUnwrittenInput : Obligations.SequencerStopsOnlyOnUnwrittenInput := by
  rintro s ⟨-, -, -, hseq, -⟩ hb
  rw [coreStep_eq, coreStepBy_busy numB64 hb]
  rcases hseq.microDp_stopsOnInput (nm := numB64) hb with ⟨d, hd⟩ | ⟨he, hin⟩
  · rw [hd]
    exact .inl ⟨_, rfl⟩
  · rw [he]
    exact .inr ⟨rfl, hin⟩

end Sys2Proof.Machine
end

section
/-! The fields of a command word, and what the decoder reads from them (30_encoding.md R75 to R78, R82). -/

namespace Sys2Proof.Machine

/-! ## The fields of a word on its number (R75) -/

theorem opField_eq (w : Word) : opField w = w.toNat % 4 := by simp [opField, field]

theorem rsvField_eq (w : Word) : rsvField w = w.toNat / 8 % 32 := rfl

theorem invField_eq (w : Word) : invField w = (w.toNat / 4 % 2 == 1) := rfl

theorem lenFits_lenField (w : Word) : lenFits (lenField w) = true :=
  decide_eq_true (Nat.mod_lt _ (by decide))

theorem rsvField_lt (w : Word) : rsvField w < 32 := Nat.mod_lt _ (by decide)

/-! ## The fields of an assembled word (R82) -/

section Assemble

variable {len rsv op : Nat} {inv : Bool} (hrsv : rsv < 32) (hop : op < 4)
include hrsv hop

/-- The fields do not overlap. -/
theorem assemble_toNat (hlen : len < 2 ^ 24) :
    (assemble len rsv inv op).toNat = len * 256 + rsv * 8 + inv.toNat * 4 + op := by
  have := inv.toNat_lt
  rw [assemble, BitVec.toNat_ofNat, Nat.mod_eq_of_lt] <;> omega

theorem fields_assemble (hlen : len < 2 ^ 24) :
    lenField (assemble len rsv inv op) = len ∧ rsvField (assemble len rsv inv op) = rsv ∧
      invField (assemble len rsv inv op) = inv ∧ opField (assemble len rsv inv op) = op := by
  have hinv := inv.toNat_lt
  rw [lenField_eq, rsvField_eq, invField_eq, opField_eq, assemble_toNat hrsv hop hlen]
  refine ⟨by omega, by omega, ?_, by omega⟩
  have hbit : (len * 256 + rsv * 8 + inv.toNat * 4 + op) / 4 % 2 = inv.toNat := by omega
  rw [hbit]
  cases inv <;> rfl

end Assemble

/-! ## The decoder, branch by branch (R76) -/

section Decode

variable {w : Word}

theorem decode_reservedOp3 (hop : opField w = 3) :
    decode w = .ok (.reservedOp3 (lenField w) (rsvField w) (invField w)) := if_pos hop

theorem decode_reservedBits (hop : opField w ≠ 3) (hrsv : rsvField w ≠ 0) : decode w = .error .reservedBits := by
  simp [decode, hop, hrsv]

theorem decode_illegalPermuteInv (hrsv : rsvField w = 0) (hop : opField w = 0) (hinv : invField w = true) :
    decode w = .ok (.illegalPermuteInv (lenField w)) := by
  simp [decode, hrsv, hop, hinv]

theorem decode_permute (hrsv : rsvField w = 0) (hop : opField w = 0) (hinv : invField w = false) :
    decode w = .ok (.permute (lenField w)) := by
  simp [decode, hrsv, hop, hinv]

theorem decode_xformPow2 (hrsv : rsvField w = 0) (hop : opField w = 1) :
    decode w = .ok (.xformPow2 (lenField w) (invField w)) := by
  simp [decode, hrsv, hop]

theorem decode_xformGen (hrsv : rsvField w = 0) (hop : opField w = 2) :
    decode w = .ok (.xformGen (lenField w) (invField w)) := by
  simp [decode, hrsv, hop]

/-- All that the decoder can answer. -/
theorem decode_cases (w : Word) :
    (opField w = 3 ∧ decode w = .ok (.reservedOp3 (lenField w) (rsvField w) (invField w))) ∨
    (opField w ≠ 3 ∧ rsvField w ≠ 0 ∧ decode w = .error .reservedBits) ∨
    (rsvField w = 0 ∧ opField w = 0 ∧ invField w = true ∧ decode w = .ok (.illegalPermuteInv (lenField w))) ∨
    (rsvField w = 0 ∧ opField w = 0 ∧ invField w = false ∧ decode w = .ok (.permute (lenField w))) ∨
    (rsvField w = 0 ∧ opField w = 1 ∧ decode w = .ok (.xformPow2 (lenField w) (invField w))) ∨
    (rsvField w = 0 ∧ opField w = 2 ∧ decode w = .ok (.xformGen (lenField w) (invField w))) := by
  by_cases h3 : opField w = 3
  · exact .inl ⟨h3, decode_reservedOp3 h3⟩
  by_cases hr : rsvField w = 0
  · by_cases h0 : opField w = 0
    · cases hi : invField w with
      | true => exact .inr (.inr (.inl ⟨hr, h0, rfl, decode_illegalPermuteInv hr h0 hi⟩))
      | false => exact .inr (.inr (.inr (.inl ⟨hr, h0, rfl, decode_permute hr h0 hi⟩)))
    · by_cases h1 : opField w = 1
      · exact .inr (.inr (.inr (.inr (.inl ⟨hr, h1, decode_xformPow2 hr h1⟩))))
      · have h2 : opField w = 2 := by have := opField_lt w; omega
        exact .inr (.inr (.inr (.inr (.inr ⟨hr, h2, decode_xformGen hr h2⟩))))
  · exact .inr (.inl ⟨h3, hr, decode_reservedBits h3 hr⟩)

end Decode

/-! ## The decoder reads back the encoder's words -/

section DecodeAssemble

variable {n : Nat} (hn : lenFits n = true)
include hn

theorem fields_assemble_command {op : Nat} (inv : Bool) (hop : op < 4) :
    lenField (assemble n 0 inv op) = n ∧ rsvField (assemble n 0 inv op) = 0 ∧
      invField (assemble n 0 inv op) = inv ∧ opField (assemble n 0 inv op) = op :=
  fields_assemble (by decide) hop (by simpa [lenFits] using hn)

theorem decode_assemble_permute : decode (assemble n 0 false 0) = .ok (.permute n) := by
  obtain ⟨hl, hr, hi, ho⟩ := fields_assemble_command hn (op := 0) false (by decide)
  rw [decode_permute hr ho hi, hl]

theorem decode_assemble_illegalPermuteInv : decode (assemble n 0 true 0) = .ok (.illegalPermuteInv n) := by
  obtain ⟨hl, hr, hi, ho⟩ := fields_assemble_command hn (op := 0) true (by decide)
  rw [decode_illegalPermuteInv hr ho hi, hl]

theorem decode_assemble_xformPow2 (inv : Bool) : decode (assemble n 0 inv 1) = .ok (.xformPow2 n inv) := by
  obtain ⟨hl, hr, hi, ho⟩ := fields_assemble_command hn (op := 1) inv (by decide)
  rw [decode_xformPow2 hr ho, hl, hi]

theorem decode_assemble_xformGen (inv : Bool) : decode (assemble n 0 inv 2) = .ok (.xformGen n inv) := by
  obtain ⟨hl, hr, hi, ho⟩ := fields_assemble_command hn (op := 2) inv (by decide)
  rw [decode_xformGen hr ho, hl, hi]

theorem decode_assemble_reservedOp3 {rsv : Nat} (hrsv : rsv < 32) (inv : Bool) :
    decode (assemble n rsv inv 3) = .ok (.reservedOp3 n rsv inv) := by
  obtain ⟨hl, hr, hi, ho⟩ := fields_assemble (len := n) (inv := inv) hrsv (op := 3) (by decide) (by simpa [lenFits] using hn)
  rw [decode_reservedOp3 ho, hl, hr, hi]

end DecodeAssemble

/-- R82, R85: the instructions that have a word are those whose row has a bit pattern. -/
theorem encode_isSome (i : Instr) : (encode i).isSome = i.row.isSome := by cases i <;> rfl

/-! ## The decoder's answer encodes to the word it was read from -/

theorem assemble_of_fields {w : Word} {inv : Bool} {op : Nat} (hrsv : rsvField w = 0) (hinv : invField w = inv)
    (hop : opField w = op) : assemble (lenField w) 0 inv op = w := by
  subst hinv hop
  exact assemble_fields hrsv

theorem encode_of_decode {w : Word} {i : Instr} (h : decode w = .ok i) : i.wf = true ∧ encode i = some w := by
  have hlen := lenFits_lenField w
  rcases decode_cases w with ⟨ho, e⟩ | ⟨-, -, e⟩ | ⟨hr, ho, hi, e⟩ | ⟨hr, ho, hi, e⟩ | ⟨hr, ho, e⟩ | ⟨hr, ho, e⟩ <;>
    rw [e] at h <;> cases h
  · exact ⟨by simp [Instr.wf, hlen, rsvField_lt], congrArg some (assemble_fields_reserved ho)⟩
  · exact ⟨hlen, congrArg some (assemble_of_fields hr hi ho)⟩
  · exact ⟨hlen, congrArg some (assemble_of_fields hr hi ho)⟩
  · exact ⟨hlen, congrArg some (assemble_of_fields hr rfl ho)⟩
  · exact ⟨hlen, congrArg some (assemble_of_fields hr rfl ho)⟩

/-! ## Illegal words and commands (R76 steps 2 and 3) -/

theorem illegalWord_iff (w : Word) :
    illegalWord w ↔ rsvField w ≠ 0 ∨ opField w = 3 ∨ (opField w = 0 ∧ invField w = true) := by
  rw [rsvField_eq, opField_eq, invField_eq, beq_iff_eq]

theorem not_illegalWord_iff (w : Word) :
    ¬ illegalWord w ↔
      rsvField w = 0 ∧ ((opField w = 0 ∧ invField w = false) ∨ opField w = 1 ∨ opField w = 2) := by
  have hop := opField_lt w
  rw [illegalWord_iff]
  cases invField w <;> simp <;> omega

/-- R198: an illegal word issues itself as one, whichever way it is illegal. -/
theorem commandWrite_of_illegal {w : Word} (h : illegalWord w) (s : State) : commandWrite w s = issueIllegal w s := by
  by_cases ho : opField w = 3
  · exact (commandWriteBy_of_ok (decode_reservedOp3 ho) s).trans
      (congrArg (issueIllegal · s) (assemble_fields_reserved ho))
  by_cases hr : rsvField w = 0
  · obtain ⟨h0, hi⟩ := (((illegalWord_iff w).1 h).resolve_left (not_not.2 hr)).resolve_left ho
    exact (commandWriteBy_of_ok (decode_illegalPermuteInv hr h0 hi) s).trans
      (congrArg (issueIllegal · s) (assemble_of_fields hr hi h0))
  · exact commandWriteBy_of_error (decode_reservedBits ho hr) s

/-- R76 step 3: a word that is not illegal issues itself as a legal command. -/
theorem commandWrite_of_legal {w : Word} (h : ¬ illegalWord w) (s : State) : commandWrite w s = issueLegal w s := by
  obtain ⟨hr, ⟨ho, hi⟩ | ho | ho⟩ := (not_illegalWord_iff w).1 h
  · exact (commandWriteBy_of_ok (decode_permute hr ho hi) s).trans
      (congrArg (issueLegal · s) (assemble_of_fields hr hi ho))
  · exact (commandWriteBy_of_ok (decode_xformPow2 hr ho) s).trans
      (congrArg (issueLegal · s) (assemble_of_fields hr rfl ho))
  · exact (commandWriteBy_of_ok (decode_xformGen hr ho) s).trans
      (congrArg (issueLegal · s) (assemble_of_fields hr rfl ho))

/-! ## The rows of the opcode map on the fields (R78) -/

/-- The mask of the transform rows: all of RSV and OP, without INV. -/
theorem and_transformMask (x : Nat) : x &&& 0xFB = x / 8 % 32 * 8 + x % 4 := by
  have hrsv : (x &&& 0xFB) / 2 ^ 3 = x / 2 ^ 3 &&& (2 ^ 5 - 1) := Nat.and_div_two_pow
  have hlow : (x &&& 0xFB) % 2 ^ 3 = x % 2 ^ 3 &&& (2 ^ 2 - 1) := Nat.and_mod_two_pow
  rw [Nat.and_two_pow_sub_one_eq_mod] at hrsv hlow
  omega

theorem selects_iff_toNat (r : OpcodeRow) (w : Word) :
    r.selects w = true ↔ w.toNat &&& r.mask.toNat = r.pattern.toNat := by
  rw [OpcodeRow.selects, beq_iff_eq, ← BitVec.toNat_inj, BitVec.toNat_and]

theorem rowPermute_selects_iff (w : Word) :
    rowPermute.selects w = true ↔ rsvField w = 0 ∧ opField w = 0 ∧ invField w = false := by
  have hmask : w.toNat &&& 0xFF = w.toNat % 256 := Nat.and_two_pow_sub_one_eq_mod _ 8
  rw [selects_iff_toNat, rsvField_eq, opField_eq, invField_eq, beq_eq_false_iff_ne]
  simp only [rowPermute, BitVec.toNat_ofNat, Nat.reducePow, Nat.reduceMod, hmask]
  omega

theorem rowXformPow2_selects_iff (w : Word) : rowXformPow2.selects w = true ↔ rsvField w = 0 ∧ opField w = 1 := by
  rw [selects_iff_toNat, rsvField_eq, opField_eq]
  simp only [rowXformPow2, BitVec.toNat_ofNat, Nat.reducePow, Nat.reduceMod, and_transformMask]
  omega

theorem rowXformGen_selects_iff (w : Word) : rowXformGen.selects w = true ↔ rsvField w = 0 ∧ opField w = 2 := by
  rw [selects_iff_toNat, rsvField_eq, opField_eq]
  simp only [rowXformGen, BitVec.toNat_ofNat, Nat.reducePow, Nat.reduceMod, and_transformMask]
  omega

theorem rowReservedOp3_selects_iff (w : Word) : rowReservedOp3.selects w = true ↔ opField w = 3 := by
  rw [selects_iff_toNat, opField_eq]
  exact iff_of_eq (congrArg (· = 3) (Nat.and_two_pow_sub_one_eq_mod w.toNat 2))

end Sys2Proof.Machine
end

section
/-! The statements about the encoding (30_encoding.md R76 to R84). -/

namespace Sys2Proof.Machine

/-- Settles O2: the decoder reads each field where the encoder put it. -/
theorem decodeOfEncode : Obligations.DecodeOfEncode := by
  refine ⟨fun i w hwf he => ?_, fun i hi => (encode_isSome i).trans hi⟩
  cases i
  case permute n =>
    cases he
    exact decode_assemble_permute hwf
  case xformPow2 n inv =>
    cases he
    exact decode_assemble_xformPow2 hwf inv
  case xformGen n inv =>
    cases he
    exact decode_assemble_xformGen hwf inv
  case reservedOp3 len rsv inv =>
    cases he
    obtain ⟨hlen, hrsv⟩ : lenFits len = true ∧ rsv < 32 := by simpa [Instr.wf] using hwf
    exact decode_assemble_reservedOp3 hlen hrsv inv
  case illegalPermuteInv len =>
    cases he
    exact decode_assemble_illegalPermuteInv hwf
  case fft n =>
    cases he
    exact decode_assemble_xformGen hwf false
  case ifft n =>
    cases he
    exact decode_assemble_xformGen hwf true
  -- R85: the other rows have no word.
  all_goals cases he

/-- Settles O3: by the branches of the decoder. -/
theorem encodeOfDecode : Obligations.EncodeOfDecode := fun _ _ => encode_of_decode

/-- Settles O4: by the three ways a word is illegal and the three commands a legal word can be. -/
theorem everyWordIllegalOrOneCommand : Obligations.EveryWordIllegalOrOneCommand := by
  rintro w s ⟨hb, hp⟩
  refine ⟨fun h => ?_, fun h => ?_⟩
  · rw [commandWrite_of_illegal h, issueIllegal, issueCommand_ready hb hp]
    rfl
  · obtain ⟨hr, hcases⟩ := (not_illegalWord_iff w).1 h
    rw [← opField_eq, ← lenField_eq, ← invField_eq]
    refine ⟨fun ho => decode_permute hr ho ?_, decode_xformPow2 hr, decode_xformGen hr, ?_⟩
    · obtain ⟨-, hi⟩ | h1 | h2 := hcases
      · exact hi
      · omega
      · omega
    · rw [commandWrite_of_legal h, issueLegal, issueCommand_ready hb hp]

/-- Settles O5: on the fields of the word, in each branch of the decoder. -/
theorem opcodeMapSelects : Obligations.OpcodeMapSelects := by
  intro w
  simp only [illegalWord_iff, ← Bool.not_eq_true, Bool.and_eq_true, rowPermute_selects_iff, rowXformPow2_selects_iff,
    rowXformGen_selects_iff, rowReservedOp3_selects_iff]
  rcases decode_cases w with ⟨ho, e⟩ | ⟨ho, hr, e⟩ | ⟨hr, ho, hi, e⟩ | ⟨hr, ho, hi, e⟩ | ⟨hr, ho, e⟩ | ⟨hr, ho, e⟩
  · simp [ho, e]
  · simp [ho, hr, e]
  · simp [hr, ho, hi, e]
  · simp [hr, ho, hi, e]
  · simp [hr, ho, e]
  · simp [hr, ho, e]

/-- Settles O1: a word of R84 that decodes to an instruction is the word of that instruction, by the round trip of R82. -/
theorem workedEncodings : Obligations.WorkedEncodings := by
  have row {w : Word} {i : Instr} (h : decode w = .ok i) : decode w = .ok i ∧ encode i = some w :=
    ⟨h, (encode_of_decode h).2⟩
  exact ⟨row rfl, row rfl, row rfl, row rfl, row rfl, row rfl, row rfl, row rfl, row rfl, row rfl, row rfl, row rfl, rfl⟩

/-- Settles O10: WAIT is a step of the sequencer while BUSY = 1, and a move made at once when BUSY = 0; so is a tick. -/
theorem waitReadsStatusWhenIdle : Obligations.WaitReadsStatusWhenIdle := by
  intro s rest
  refine ⟨stepBy_wait_busy, fun h hb => ?_, fun h => step_of_script h rfl⟩
  exact stepBy_move h (by rw [hb, Bool.and_false])

end Sys2Proof.Machine
end

section
/-! The fields of a binary64 image, and the number it stands for (40_complex_arith.md R102). -/

namespace Sys2Proof.Machine

/-! ## The fields of an image -/

theorem f64Exp_lt (x : F64) : f64Exp x < 2 ^ 11 := Nat.mod_lt _ (by decide)

theorem f64Frac_lt (x : F64) : f64Frac x < 2 ^ 52 := Nat.mod_lt _ (by decide)

theorem f64Frac_eq_extract (x : F64) : f64Frac x = (x.extractLsb' 0 52).toNat := by
  simp [f64Frac, BitVec.extractLsb'_toNat]

theorem f64Sign_eq_msb (x : F64) : f64Sign x = x.msb := by
  rw [f64Sign, BitVec.msb_eq_decide, Bool.eq_iff_iff, beq_iff_eq, decide_eq_true_iff]
  omega

/-- An image is its three fields. -/
theorem f64_toNat (x : F64) : x.toNat = (f64Sign x).toNat * 2 ^ 63 + f64Exp x * 2 ^ 52 + f64Frac x := by
  have hs : (f64Sign x).toNat = x.toNat / 2 ^ 63 := by
    have := x.isLt
    rcases show x.toNat / 2 ^ 63 = 0 ∨ x.toNat / 2 ^ 63 = 1 by omega with h | h <;> rw [f64Sign, h] <;> rfl
  rw [hs, f64Exp, f64Frac]
  omega

theorem f64_ext {x y : F64} (hs : f64Sign x = f64Sign y) (he : f64Exp x = f64Exp y) (hf : f64Frac x = f64Frac y) : x = y :=
  BitVec.eq_of_toNat_eq (by rw [f64_toNat x, f64_toNat y, hs, he, hf])

theorem f64Pack_toNat {neg : Bool} {b : Nat} (hb : b < 2 ^ 63) : (f64Pack neg b).toNat = neg.toNat * 2 ^ 63 + b := by
  have := neg.toNat_lt
  rw [f64Pack, BitVec.toNat_ofNat, Nat.mod_eq_of_lt (by omega)]

section Pack

variable (neg : Bool) {b : Nat} (hb : b < 2 ^ 63)

include hb

theorem f64Sign_pack : f64Sign (f64Pack neg b) = neg := by
  rw [f64Sign, f64Pack_toNat hb]
  cases neg
  · simp; omega
  · simp; omega

theorem f64Exp_pack : f64Exp (f64Pack neg b) = b / 2 ^ 52 := by
  rw [f64Exp, f64Pack_toNat hb]
  omega

theorem f64Frac_pack : f64Frac (f64Pack neg b) = b % 2 ^ 52 := by
  rw [f64Frac, f64Pack_toNat hb]
  omega

end Pack

theorem f64Neg_neg (x : F64) : f64Neg (f64Neg x) = x := by
  simp [f64Neg]

@[simp] theorem f64Exp_neg (x : F64) : f64Exp (f64Neg x) = f64Exp x := by
  simp [f64Exp_eq_extract, f64Neg, BitVec.extractLsb'_xor]

@[simp] theorem f64Frac_neg (x : F64) : f64Frac (f64Neg x) = f64Frac x := by
  simp [f64Frac_eq_extract, f64Neg, BitVec.extractLsb'_xor]

@[simp] theorem f64Sign_neg (x : F64) : f64Sign (f64Neg x) = !f64Sign x := by
  have : (BitVec.ofNat 64 (2 ^ 63)).msb = true := by decide
  rw [f64Sign_eq_msb, f64Sign_eq_msb, f64Neg, BitVec.msb_xor, this, Bool.xor_true]

/-! ## Finite numbers -/

theorem f64IsNaN_of_isFinite {x : F64} (h : f64IsFinite x = true) : f64IsNaN x = false := by
  simp_all [f64IsFinite, f64IsNaN]

theorem f64IsInf_of_isFinite {x : F64} (h : f64IsFinite x = true) : f64IsInf x = false := by
  simp_all [f64IsFinite, f64IsInf]

@[simp] theorem f64IsFinite_neg (x : F64) : f64IsFinite (f64Neg x) = f64IsFinite x := by
  simp [f64IsFinite]

theorem f64Inf_not_isFinite (neg : Bool) : f64IsFinite (f64Inf neg) = false := by
  cases neg <;> decide

theorem f64IsNaN_f64NaN (op : NumOp) (x y : F64) : f64IsNaN (f64NaN op x y) = true := by
  have hd := Nat.mod_lt (Config.nanDraw op x y).toNat (show 2 ^ 51 > 0 by decide)
  have hb : 2047 * 2 ^ 52 + 2 ^ 51 + (Config.nanDraw op x y).toNat % 2 ^ 51 < 2 ^ 63 := by omega
  simp only [f64IsNaN, f64NaN, f64Exp_pack _ hb, f64Frac_pack _ hb, Bool.and_eq_true, beq_iff_eq, bne_iff_ne]
  omega

/-! ## The number an image stands for -/

/-- The magnitude in units of 2^−1074. -/
def f64Magnitude (x : F64) : Nat := f64Mant x * 2 ^ f64Scale x

theorem f64Units_eq (x : F64) : f64Units x = (if f64Sign x then -1 else 1) * (f64Magnitude x : Int) := by
  rw [f64Units, f64Magnitude]
  split <;> simp

theorem f64Units_neg (x : F64) : f64Units (f64Neg x) = -f64Units x := by
  have hm : f64Magnitude (f64Neg x) = f64Magnitude x := by simp [f64Magnitude, f64Mant, f64Scale]
  rw [f64Units_eq, f64Units_eq, hm, f64Sign_neg]
  cases f64Sign x <;> simp

theorem natAbs_f64Units (x : F64) : (f64Units x).natAbs = f64Magnitude x := by
  rw [f64Units_eq]
  split <;> simp

theorem f64Mant_lt (x : F64) : f64Mant x < 2 ^ 53 := by
  have := f64Frac_lt x
  rw [f64Mant]
  split <;> omega

theorem f64Mant_eq_zero {x : F64} : f64Mant x = 0 ↔ f64IsZero x = true := by
  rw [f64Mant, f64IsZero]
  split <;> simp_all

theorem f64Scale_le {x : F64} (h : f64IsFinite x = true) : f64Scale x ≤ 2045 := by
  have he : f64Exp x ≠ 2047 := by simpa [f64IsFinite] using h
  have := f64Exp_lt x
  rw [f64Scale]
  split <;> omega

/-- A finite number has at most 53 bits at any scale that is at least the largest, 2045. -/
theorem f64Magnitude_le {x : F64} (h : f64IsFinite x = true) {t : Nat} (ht : 2045 ≤ t) :
    f64Magnitude x ≤ (2 ^ 53 - 1) * 2 ^ t :=
  Nat.mul_le_mul (Nat.le_sub_one_of_lt (f64Mant_lt x)) (Nat.pow_le_pow_right two_pos ((f64Scale_le h).trans ht))

/-- Every number is a multiple of `2^t` units or lies below the numbers that need that scale. -/
theorem f64Units_dvd_or_lt (v : F64) (t : Nat) : 2 ^ t ∣ f64Units v ∨ |f64Units v| < 2 ^ 52 * 2 ^ t := by
  rcases Nat.lt_or_ge (f64Scale v) t with h | h
  · right
    rw [← Int.natCast_natAbs, natAbs_f64Units, f64Magnitude]
    have hp : 2 * 2 ^ f64Scale v ≤ 2 ^ t := by
      rw [← pow_succ']
      exact Nat.pow_le_pow_right two_pos h
    have := Nat.mul_lt_mul_of_pos_right (f64Mant_lt v) (Nat.two_pow_pos (f64Scale v))
    exact_mod_cast show f64Mant v * 2 ^ f64Scale v < 2 ^ 52 * 2 ^ t by omega
  · left
    rw [← Int.dvd_natAbs, natAbs_f64Units, f64Magnitude]
    exact_mod_cast Dvd.dvd.mul_left (Nat.pow_dvd_pow 2 h) _

/-- The image whose magnitude bits are mantissa `q` at scale `t`, as `f64Round` lays them out: a mantissa of `2^53` is the
carry into the next exponent, and a mantissa below `2^52` is a subnormal. -/
theorem f64Magnitude_pack {neg : Bool} {t q : Nat} (hq : q ≤ 2 ^ 53) (ht : t ≠ 0 → 2 ^ 52 ≤ q)
    (hb : t * 2 ^ 52 + q < 2047 * 2 ^ 52) : f64Magnitude (f64Pack neg (t * 2 ^ 52 + q)) = q * 2 ^ t := by
  have h63 : t * 2 ^ 52 + q < 2 ^ 63 := by omega
  rw [f64Magnitude, f64Mant, f64Scale, f64Exp_pack neg h63, f64Frac_pack neg h63]
  rcases Nat.lt_or_ge q (2 ^ 52) with h | h
  · obtain rfl : t = 0 := by omega
    rw [if_pos (by omega), if_pos (by omega)]
    omega
  rcases Nat.lt_or_ge q (2 ^ 53) with h' | h'
  · rw [if_neg (by omega), if_neg (by omega), show (t * 2 ^ 52 + q) / 2 ^ 52 - 1 = t by omega,
      show 2 ^ 52 + (t * 2 ^ 52 + q) % 2 ^ 52 = q by omega]
  · obtain rfl : q = 2 ^ 53 := by omega
    rw [if_neg (by omega), if_neg (by omega), show (t * 2 ^ 52 + 2 ^ 53) / 2 ^ 52 - 1 = t + 1 by omega,
      show 2 ^ 52 + (t * 2 ^ 52 + 2 ^ 53) % 2 ^ 52 = 2 ^ 52 by omega, pow_succ 2 t]
    omega

end Sys2Proof.Machine
end

section
/-! Rounding to nearest, ties to even (40_complex_arith.md R102): what `f64Round` gives is nearest among all numbers. -/

namespace Sys2Proof.Machine

/-! ## Nearness -/

/-- `r` is as near to `X` as `w` is, and `even` holds where `w` is another number equally near. -/
def AsNear (r w X : ℚ) (even : Prop) : Prop := |r - X| ≤ |w - X| ∧ (|r - X| = |w - X| → w ≠ r → even)

theorem AsNear.mul {r w X : ℚ} {even : Prop} (h : AsNear r w X even) {c : ℚ} (hc : c ≠ 0) :
    AsNear (r * c) (w * c) (X * c) even := by
  have hscale : ∀ a : ℚ, |a * c - X * c| = |a - X| * |c| := fun a => by rw [← sub_mul, abs_mul]
  rw [AsNear, hscale, hscale, mul_left_inj' (abs_ne_zero.2 hc)]
  exact ⟨mul_le_mul_of_nonneg_right h.1 (abs_nonneg c), fun he hne => h.2 he fun e => hne (by rw [e])⟩

theorem AsNear.of_lt {r w X : ℚ} {even : Prop} (h : |r - X| < |w - X|) : AsNear r w X even :=
  ⟨h.le, fun he => absurd he h.ne⟩

/-! ## Rounding to a natural -/

/-- `q` is the natural nearest to `y`, the even one of two equally near. -/
def RoundsTo (q : Nat) (y : ℚ) : Prop := |q - y| < 1 / 2 ∨ (|q - y| = 1 / 2 ∧ q % 2 = 0)

/-- What a number rounds to is nearest to it among the integers. -/
theorem RoundsTo.asNear {q : Nat} {y : ℚ} (h : RoundsTo q y) (n : ℤ) : AsNear q n y (q % 2 = 0) := by
  by_cases hn : n = q
  · subst hn
    exact ⟨le_of_eq (by simp), fun _ hne => absurd rfl hne⟩
  · have h1 : (1 : ℚ) ≤ |(n : ℚ) - q| := by exact_mod_cast Int.one_le_abs (sub_ne_zero.2 hn)
    have h2 : |(n : ℚ) - q| ≤ |n - y| + |q - y| := by
      rw [abs_sub_comm (q : ℚ) y]
      exact abs_sub_le _ _ _
    rcases h with h | ⟨h, he⟩
    · exact .of_lt (by linarith)
    · exact ⟨by linarith, fun _ _ => he⟩

section Scaled

variable {q : Nat} {X p : ℚ} (h : RoundsTo q (X / p)) (hp : 0 < p)

include h hp

/-- A rounded multiple of `p` is nearest among the multiples of `p`. -/
theorem RoundsTo.asNear_mul (n : ℤ) : AsNear (q * p) (n * p) X (q % 2 = 0) := by
  simpa only [div_mul_cancel₀ X hp.ne'] using (h.asNear n).mul hp.ne'

/-- It is nearer than what lies below a multiple of `p` that does not exceed `X`. -/
theorem RoundsTo.asNear_below {n w : ℤ} (hX : n * p ≤ X) (hw : w < n * p) : AsNear (q * p) w X (q % 2 = 0) := by
  have hn := (h.asNear_mul hp n).1
  rw [abs_sub_comm (n * p), abs_of_nonneg (sub_nonneg.2 hX)] at hn
  refine .of_lt ?_
  rw [abs_sub_comm (w : ℚ)]
  linarith [le_abs_self (X - w)]

end Scaled

theorem RoundsTo.half {q : Nat} {y : ℚ} (h : RoundsTo q y) : -(1 / 2) ≤ q - y ∧ q - y ≤ 1 / 2 :=
  abs_le.1 (h.elim le_of_lt fun h => h.1.le)

/-- Rounding does not pass a natural. -/
theorem RoundsTo.le {q n : Nat} {y : ℚ} (h : RoundsTo q y) (hy : y ≤ n) : q ≤ n := by
  have : (q : ℚ) < (n + 1 : ℕ) := by push_cast; linarith [h.half.2]
  exact Nat.lt_succ_iff.1 (by exact_mod_cast this)

theorem RoundsTo.ge {q n : Nat} {y : ℚ} (h : RoundsTo q y) (hy : n ≤ y) : n ≤ q := by
  have : (n : ℚ) < (q + 1 : ℕ) := by push_cast; linarith [h.half.1]
  exact Nat.lt_succ_iff.1 (by exact_mod_cast this)

theorem RoundsTo.natCast (m : Nat) : RoundsTo m (m : ℚ) := .inl (by norm_num)

/-- Rounding a quotient, without the division. -/
theorem roundsTo_div_iff {q : Nat} {z p : ℚ} (hp : 0 < p) :
    RoundsTo q (z / p) ↔ |2 * (q * p) - 2 * z| < p ∨ (|2 * (q * p) - 2 * z| = p ∧ q % 2 = 0) := by
  have hscale : |2 * (q * p) - 2 * z| = |q - z / p| * (2 * p) := by
    rw [show 2 * (q * p) - 2 * z = (q - z / p) * (2 * p) by field_simp, abs_mul,
      abs_of_pos (show 0 < 2 * p by positivity)]
  rw [RoundsTo, hscale, ← mul_assoc, mul_lt_iff_lt_one_left hp, mul_eq_right₀ hp.ne', ← lt_div_iff₀ two_pos,
    ← eq_div_iff two_ne_zero]

/-- `roundShift` in integers: twice the distance to the product against the divisor. -/
theorem roundShift_cases (m k : Nat) :
    |2 * ((roundShift m k : ℤ) * 2 ^ k) - 2 * m| < 2 ^ k ∨
      (|2 * ((roundShift m k : ℤ) * 2 ^ k) - 2 * m| = 2 ^ k ∧ roundShift m k % 2 = 0) := by
  have hm : 2 ^ k * (m / 2 ^ k) + m % 2 ^ k = m := Nat.div_add_mod m (2 ^ k)
  have hlt : m % 2 ^ k < 2 ^ k := Nat.mod_lt m (Nat.two_pow_pos k)
  have hcast : ((2 ^ k : ℕ) : ℤ) = 2 ^ k := by push_cast; rfl
  rw [roundShift, ← hcast]
  generalize 2 ^ k = p at *
  generalize m / p = d at *
  generalize m % p = r at *
  subst hm
  split
  · have : 2 * (((d + 1 : ℕ) : ℤ) * p) - 2 * (p * d + r : ℕ) = 2 * p - 2 * r := by push_cast; ring
    rw [this, abs_of_nonneg (by omega)]
    omega
  · have : 2 * ((d : ℤ) * p) - 2 * (p * d + r : ℕ) = -(2 * r) := by push_cast; ring
    rw [this, abs_neg, abs_of_nonneg (by omega)]
    omega

/-- `m` stands for `z`: exactly, or by at least 54 bits and a last bit that says that more follow (a sticky bit). -/
def StandsFor (m : Nat) (z : ℚ) : Prop := z = m ∨ (2 ^ 54 ≤ m ∧ m % 2 = 1 ∧ |z - m| < 1)

theorem StandsFor.zero {z : ℚ} (h : StandsFor 0 z) : z = 0 := by
  rcases h with h | h
  · exact_mod_cast h
  · omega

theorem StandsFor.bounds {m : Nat} {z : ℚ} (hm : m ≠ 0) (h : StandsFor m z) :
    (2 : ℚ) ^ Nat.log2 m ≤ z ∧ z ≤ 2 ^ (Nat.log2 m + 1) := by
  have h1 : 2 ^ Nat.log2 m ≤ m := Nat.log2_self_le hm
  have h2 : m < 2 ^ (Nat.log2 m + 1) := Nat.lt_log2_self
  rcases h with rfl | ⟨h54, hodd, hz⟩
  · exact ⟨by exact_mod_cast h1, by exact_mod_cast h2.le⟩
  · obtain ⟨hz1, hz2⟩ := abs_lt.1 hz
    have hl : Nat.log2 m ≠ 0 := by
      have := (Nat.le_log2 hm).2 h54
      omega
    have heven : 2 ∣ 2 ^ Nat.log2 m := dvd_pow_self 2 hl
    have h1' : (2 ^ Nat.log2 m : ℚ) + 1 ≤ m := by exact_mod_cast show 2 ^ Nat.log2 m + 1 ≤ m by omega
    have h2' : (m : ℚ) + 1 ≤ 2 ^ (Nat.log2 m + 1) := by exact_mod_cast h2
    exact ⟨by linarith, by linarith⟩

/-- An odd number is no midpoint, nor next to one, where two bits or more are dropped. -/
theorem roundShift_of_odd {m j : Nat} (hm : m % 2 = 1) :
    |2 * ((roundShift m (2 + j) : ℤ) * 2 ^ (2 + j)) - 2 * m| ≤ 2 ^ (2 + j) - 2 := by
  have h := roundShift_cases m (2 + j)
  generalize (roundShift m (2 + j) : ℤ) = q at *
  obtain ⟨c, hc0, hc⟩ : ∃ c : ℤ, 0 < c ∧ (2 : ℤ) ^ (2 + j) = 4 * c := ⟨2 ^ j, by positivity, pow_add 2 2 j⟩
  rw [hc, show 2 * (q * (4 * c)) = 8 * (q * c) by ring, abs_lt, abs_eq (by omega)] at h
  rw [hc, show 2 * (q * (4 * c)) = 8 * (q * c) by ring, abs_le]
  omega

/-- A sticky bit below the half of the last place does not change the rounding. -/
theorem roundShift_roundsTo {m k : Nat} {z : ℚ} (h : StandsFor m z) (hk : 2 ^ 54 ≤ m → 2 ≤ k) :
    RoundsTo (roundShift m k) (z / 2 ^ k) := by
  rw [roundsTo_div_iff (by positivity)]
  rcases h with rfl | ⟨h54, hodd, hz⟩
  · exact_mod_cast roundShift_cases m k
  · obtain ⟨j, rfl⟩ := Nat.exists_eq_add_of_le (hk h54)
    have hfar : |2 * ((roundShift m (2 + j) : ℚ) * 2 ^ (2 + j)) - 2 * m| ≤ 2 ^ (2 + j) - 2 := by
      exact_mod_cast roundShift_of_odd (j := j) hodd
    left
    rw [abs_le] at hfar
    rw [abs_lt] at hz ⊢
    constructor <;> linarith

/-! ## The mantissa and the scale of `f64Round` -/

/-- The scale of `m · 2^e` in `f64Round`, counted from the least, `2^−1074`. -/
def roundScale (m : Nat) (e : Int) : Nat := (max (e + (Nat.log2 m : Int) - 52) (-1074) + 1074).toNat

/-- The mantissa of `m · 2^e` in `f64Round`, rounded at that scale. -/
def roundMant (m : Nat) (e : Int) : Nat :=
  if (roundScale m e : Int) - 1074 ≤ e then m * 2 ^ (e - (roundScale m e - 1074)).toNat
  else roundShift m (roundScale m e - 1074 - e).toNat

theorem roundScale_eq (m : Nat) (e : Int) : (roundScale m e : Int) - 1074 = max (e + (Nat.log2 m : Int) - 52) (-1074) := by
  rw [roundScale]
  omega

/-- The magnitude bits that `f64Round` gives `m · 2^e`. -/
def roundBits (m : Nat) (e : Int) : Nat := roundScale m e * 2 ^ 52 + roundMant m e

theorem f64Round_zero (neg : Bool) (e : Int) : f64Round neg 0 e = f64Zero neg := rfl

theorem f64Round_of_ne_zero (neg : Bool) {m : Nat} (hm : m ≠ 0) (e : Int) :
    f64Round neg m e = if 2047 * 2 ^ 52 ≤ roundBits m e then f64Inf neg else f64Pack neg (roundBits m e) := by
  rw [f64Round, if_neg hm, roundBits, roundMant, roundScale_eq, roundScale]

theorem f64Round_of_lt (neg : Bool) {m : Nat} (hm : m ≠ 0) {e : Int} (hb : roundBits m e < 2047 * 2 ^ 52) :
    f64Round neg m e = f64Pack neg (roundBits m e) := by
  rw [f64Round_of_ne_zero neg hm, if_neg (not_le.2 hb)]

/-- The result is finite where it does not round past the largest finite number. -/
theorem f64Round_isFinite_iff (neg : Bool) {m : Nat} (hm : m ≠ 0) (e : Int) :
    f64IsFinite (f64Round neg m e) = true ↔ roundBits m e < 2047 * 2 ^ 52 := by
  rcases Nat.lt_or_ge (roundBits m e) (2047 * 2 ^ 52) with hb | hb
  · rw [f64Round_of_lt neg hm hb, f64IsFinite, f64Exp_pack neg (by omega), bne_iff_ne]
    omega
  · rw [f64Round_of_ne_zero neg hm, if_pos hb, f64Inf_not_isFinite]
    simpa using hb

theorem f64Round_true (m : Nat) (e : Int) : f64Round true m e = f64Neg (f64Round false m e) := by
  have hpack : ∀ {b : Nat}, b < 2 ^ 63 → f64Pack true b = f64Neg (f64Pack false b) := fun hb =>
    f64_ext (by rw [f64Sign_neg, f64Sign_pack _ hb, f64Sign_pack _ hb]; rfl)
      (by rw [f64Exp_neg, f64Exp_pack _ hb, f64Exp_pack _ hb]) (by rw [f64Frac_neg, f64Frac_pack _ hb, f64Frac_pack _ hb])
  by_cases hm : m = 0
  · rw [hm, f64Round_zero, f64Round_zero]
    exact hpack (by decide)
  · rw [f64Round_of_ne_zero _ hm, f64Round_of_ne_zero _ hm]
    split
    · exact hpack (by decide)
    · exact hpack (by omega)

section Mantissa

variable {m : Nat} {z : ℚ} {e : Int} (hm : m ≠ 0) (h : StandsFor m z)

/-- The number in units of its scale. -/
theorem scaled_eq (m : Nat) (z : ℚ) (e : Int) :
    z * 2 ^ (e + 1074) / 2 ^ roundScale m e = z * 2 ^ (e - (roundScale m e - 1074)) := by
  rw [mul_div_assoc, ← zpow_natCast, ← zpow_sub₀ two_ne_zero]
  congr 2
  ring

include hm h

theorem roundMant_roundsTo : RoundsTo (roundMant m e) (z * 2 ^ (e + 1074) / 2 ^ roundScale m e) := by
  have hbig : 2 ^ 54 ≤ m → e + 2 ≤ roundScale m e - 1074 := fun h54 => by
    have := (Nat.le_log2 hm).2 h54
    rw [roundScale_eq]
    omega
  rw [scaled_eq, roundMant]
  split
  case isTrue hle =>
    obtain rfl : z = m := h.resolve_right fun ⟨h54, _⟩ => by have := hbig h54; omega
    rw [← Int.toNat_of_nonneg (sub_nonneg.2 hle), zpow_natCast, Int.toNat_natCast]
    exact_mod_cast RoundsTo.natCast (m * 2 ^ (e - (roundScale m e - 1074)).toNat)
  case isFalse hlt =>
    have hk : e - (roundScale m e - 1074) = -((roundScale m e - 1074 - e).toNat : Int) := by omega
    rw [hk, zpow_neg, zpow_natCast, ← div_eq_mul_inv]
    exact roundShift_roundsTo h fun h54 => by have := hbig h54; omega

theorem scaled_le : z * 2 ^ (e + 1074) / 2 ^ roundScale m e ≤ 2 ^ 53 := by
  have hs := roundScale_eq m e
  calc z * 2 ^ (e + 1074) / 2 ^ roundScale m e
      = z * 2 ^ (e - (roundScale m e - 1074)) := scaled_eq m z e
    _ ≤ 2 ^ (Nat.log2 m + 1) * 2 ^ (52 - (Nat.log2 m : Int)) := by
        refine mul_le_mul (h.bounds hm).2 (zpow_le_zpow_right₀ one_le_two (by omega)) (by positivity) (by positivity)
    _ = 2 ^ 53 := by
        rw [← zpow_natCast, ← zpow_add₀ two_ne_zero, ← zpow_natCast]
        congr 1
        omega

theorem le_scaled (ht : roundScale m e ≠ 0) : 2 ^ 52 ≤ z * 2 ^ (e + 1074) / 2 ^ roundScale m e := by
  have hs := roundScale_eq m e
  calc (2 : ℚ) ^ 52 = 2 ^ Nat.log2 m * 2 ^ (52 - (Nat.log2 m : Int)) := by
        rw [← zpow_natCast, ← zpow_natCast, ← zpow_add₀ two_ne_zero]
        congr 1
        omega
    _ ≤ z * 2 ^ (52 - (Nat.log2 m : Int)) := mul_le_mul_of_nonneg_right (h.bounds hm).1 (by positivity)
    _ = z * 2 ^ (e - (roundScale m e - 1074)) := by
        congr 2
        omega
    _ = z * 2 ^ (e + 1074) / 2 ^ roundScale m e := (scaled_eq m z e).symm

theorem roundMant_le : roundMant m e ≤ 2 ^ 53 :=
  (roundMant_roundsTo hm h).le (by exact_mod_cast scaled_le (e := e) hm h)

theorem le_roundMant (ht : roundScale m e ≠ 0) : 2 ^ 52 ≤ roundMant m e :=
  (roundMant_roundsTo hm h).ge (by exact_mod_cast le_scaled hm h ht)

end Mantissa

end Sys2Proof.Machine
end

section
/-! What the operations of `NUM_b64` round to (40_complex_arith.md R102). -/

namespace Sys2Proof.Machine

/-- `r` is a number nearest to `X` units, and the one with an even last bit of two equally near ones. -/
def NearestEven (r : F64) (X : ℚ) : Prop := ∀ v : F64, AsNear (f64Units r) (f64Units v) X (f64Frac r % 2 = 0)

theorem f64Units_eq_zero {x : F64} : f64Units x = 0 ↔ f64IsZero x = true := by
  rw [← Int.natAbs_eq_zero, natAbs_f64Units, f64Magnitude, ← f64Mant_eq_zero]
  simp

theorem f64Units_zero (neg : Bool) : f64Units (f64Zero neg) = 0 := by cases neg <;> decide

theorem NearestEven.zero (neg : Bool) : NearestEven (f64Zero neg) 0 := fun v => by
  have hf : f64Frac (f64Zero neg) % 2 = 0 := by cases neg <;> decide
  exact ⟨by simp [f64Units_zero], fun _ _ => hf⟩

theorem NearestEven.neg {r : F64} {X : ℚ} (h : NearestEven r X) : NearestEven (f64Neg r) (-X) := fun v => by
  simpa [f64Units_neg] using (h (f64Neg v)).mul (c := -1) (by norm_num)

/-- A number that is there is its own rounding. -/
theorem NearestEven.eq_of_units {r v : F64} (h : NearestEven r (f64Units v)) : f64Units r = f64Units v := by
  have := (h v).1
  rw [sub_self, abs_zero, abs_nonpos_iff, sub_eq_zero] at this
  exact_mod_cast this

/-- Nearest in integers, after both sides are multiplied by a denominator of the exact number. -/
theorem NearestEven.scaled {r : F64} {X : ℚ} (h : NearestEven r X) {a c : ℤ} (hc : (c : ℚ) ≠ 0) (hX : X * c = a)
    (v : F64) :
    |f64Units r * c - a| ≤ |f64Units v * c - a| ∧
      (|f64Units r * c - a| = |f64Units v * c - a| → f64Units v ≠ f64Units r → f64Frac r % 2 = 0) := by
  obtain ⟨hle, heven⟩ := (h v).mul hc
  rw [hX] at hle heven
  refine ⟨by exact_mod_cast hle, fun he hne => heven (by exact_mod_cast he) fun e => hne ?_⟩
  exact_mod_cast mul_right_cancel₀ hc e

/-! ## `f64Round` -/

section Round

variable {m : Nat} {z : ℚ} {e : Int} (h : StandsFor m z)

include h

/-- The rounded mantissa at its scale is nearest among the multiples of the scale and the numbers too small for it. -/
theorem roundMant_asNear (hm : m ≠ 0) {w : ℤ} (hw : 2 ^ roundScale m e ∣ w ∨ |w| < 2 ^ 52 * 2 ^ roundScale m e) :
    AsNear (roundMant m e * 2 ^ roundScale m e) w (z * 2 ^ (e + 1074)) (roundMant m e % 2 = 0) := by
  have hr := roundMant_roundsTo (e := e) hm h
  have hp : (0 : ℚ) < 2 ^ roundScale m e := by positivity
  by_cases hd : 2 ^ roundScale m e ∣ w
  · obtain ⟨n, rfl⟩ := hd
    simpa [mul_comm] using hr.asNear_mul hp n
  · have ht : roundScale m e ≠ 0 := fun h0 => hd (by simp [h0])
    have hX := (le_div_iff₀ hp).1 (le_scaled (e := e) hm h ht)
    have hlt : w < 2 ^ 52 * 2 ^ roundScale m e := (le_abs_self w).trans_lt (hw.resolve_left hd)
    exact hr.asNear_below hp (n := 2 ^ 52) (by exact_mod_cast hX) (by exact_mod_cast hlt)

/-- A finite result of `f64Round` is nearest to the number that is rounded. -/
theorem f64Round_nearestEven {neg : Bool} (hf : f64IsFinite (f64Round neg m e) = true) :
    NearestEven (f64Round neg m e) (if neg then -(z * 2 ^ (e + 1074)) else z * 2 ^ (e + 1074)) := by
  have hfalse : NearestEven (f64Round false m e) (z * 2 ^ (e + 1074)) := by
    by_cases hm : m = 0
    · subst hm
      rw [h.zero, zero_mul, f64Round_zero]
      exact NearestEven.zero false
    · have hb := (f64Round_isFinite_iff neg hm e).1 hf
      have h63 : roundBits m e < 2 ^ 63 := by omega
      have hU : f64Units (f64Pack false (roundBits m e)) = roundMant m e * 2 ^ roundScale m e := by
        rw [f64Units_eq, f64Sign_pack _ h63, roundBits, f64Magnitude_pack (roundMant_le hm h) (le_roundMant hm h) hb]
        simp
      have hF : f64Frac (f64Pack false (roundBits m e)) % 2 = roundMant m e % 2 := by
        rw [f64Frac_pack _ h63, roundBits]
        omega
      intro v
      rw [f64Round_of_lt false hm hb, hU, hF]
      push_cast
      exact roundMant_asNear h hm (f64Units_dvd_or_lt v _)
  cases neg
  case false => exact hfalse
  case true =>
    rw [f64Round_true]
    exact hfalse.neg

/-- Nothing that is at most the largest finite number rounds past it. -/
theorem f64Round_isFinite {neg : Bool} (hle : ∀ t : Nat, 2045 ≤ t → z * 2 ^ (e + 1074) ≤ (2 ^ 53 - 1 : ℕ) * 2 ^ t) :
    f64IsFinite (f64Round neg m e) = true := by
  by_cases hm : m = 0
  · rw [hm, f64Round_zero]
    cases neg <;> decide
  have hp : ∀ t : Nat, (0 : ℚ) < 2 ^ t := fun t => by positivity
  have ht : roundScale m e < 2046 := by
    by_contra hge
    obtain ⟨t, ht⟩ := Nat.exists_eq_succ_of_ne_zero (show roundScale m e ≠ 0 by omega)
    have h1 := le_scaled (e := e) hm h (by omega)
    have h2 := hle t (by omega)
    rw [ht, le_div_iff₀ (hp _), Nat.succ_eq_add_one, pow_succ _ t] at h1
    norm_num at h1 h2
    linarith [hp t]
  have hq : roundScale m e = 2045 → roundMant m e ≤ 2 ^ 53 - 1 := fun he =>
    (roundMant_roundsTo hm h).le ((div_le_iff₀ (hp _)).2 (hle _ he.ge))
  have hq' := roundMant_le (e := e) hm h
  rw [f64Round_isFinite_iff neg hm, roundBits]
  omega

end Round

end Sys2Proof.Machine
end

section
/-! The sum, the difference, the product and the quotient of finite numbers (40_complex_arith.md R102). -/

namespace Sys2Proof.Machine

theorem f64SumOr_of_isFinite (nan : F64) {x y : F64} (hx : f64IsFinite x = true) (hy : f64IsFinite y = true) :
    f64SumOr nan x y =
      if f64Units x + f64Units y = 0 then
        if f64IsZero x && f64IsZero y then f64Zero (f64Sign x && f64Sign y) else f64Zero false
      else f64Round (f64Units x + f64Units y < 0) (f64Units x + f64Units y).natAbs (-1074) := by
  simp only [f64SumOr, f64IsInf_of_isFinite hx, f64IsInf_of_isFinite hy, Bool.false_eq_true, if_false]

/-- A finite sum of finite numbers is nearest to the exact one. -/
theorem f64SumOr_nearestEven {nan x y : F64} (hx : f64IsFinite x = true) (hy : f64IsFinite y = true)
    (hf : f64IsFinite (f64SumOr nan x y) = true) :
    NearestEven (f64SumOr nan x y) ((f64Units x + f64Units y : ℤ) : ℚ) := by
  rw [f64SumOr_of_isFinite nan hx hy] at hf ⊢
  generalize f64Units x + f64Units y = u at *
  split
  case isTrue h0 =>
    rw [h0, Int.cast_zero, ← apply_ite f64Zero]
    exact NearestEven.zero _
  case isFalse h0 =>
    rw [if_neg h0] at hf
    have hu : (u : ℚ) = if decide (u < 0) then -((u.natAbs : ℚ) * 2 ^ (-1074 + 1074 : ℤ))
        else (u.natAbs : ℚ) * 2 ^ (-1074 + 1074 : ℤ) := by
      rw [show (-1074 + 1074 : ℤ) = 0 by norm_num, zpow_zero, mul_one, Nat.cast_natAbs]
      rcases lt_or_ge u 0 with hlt | hge
      · rw [if_pos (by simpa using hlt), abs_of_neg hlt, Int.cast_neg, neg_neg]
      · rw [if_neg (by simpa using hge), abs_of_nonneg hge]
    rw [hu]
    exact f64Round_nearestEven (.inl rfl) hf

theorem f64Add_nearestEven {x y : F64} (hx : f64IsFinite x = true) (hy : f64IsFinite y = true)
    (hf : f64IsFinite (f64Add x y) = true) : NearestEven (f64Add x y) ((f64Units x + f64Units y : ℤ) : ℚ) := by
  have he : f64Add x y = f64SumOr (f64NaNComm .add x y) x y := by
    simp [f64Add, f64IsNaN_of_isFinite hx, f64IsNaN_of_isFinite hy]
  rw [he] at hf ⊢
  exact f64SumOr_nearestEven hx hy hf

theorem f64Sub_nearestEven {x y : F64} (hx : f64IsFinite x = true) (hy : f64IsFinite y = true)
    (hf : f64IsFinite (f64Sub x y) = true) : NearestEven (f64Sub x y) ((f64Units x - f64Units y : ℤ) : ℚ) := by
  have he : f64Sub x y = f64SumOr (f64NaN .sub x y) x (f64Neg y) := by
    simp [f64Sub, f64IsNaN_of_isFinite hx, f64IsNaN_of_isFinite hy]
  rw [he] at hf ⊢
  rw [sub_eq_add_neg, ← f64Units_neg]
  exact f64SumOr_nearestEven hx (by rwa [f64IsFinite_neg]) hf

/-- The sign of a product or quotient. -/
theorem ite_sign_bne (a b : Bool) (u : ℚ) : (if a != b then -u else u) = (if a then -1 else 1) * (if b then -1 else 1) * u := by
  cases a <;> cases b <;> simp

theorem f64Units_eq_mant (x : F64) :
    (f64Units x : ℚ) = (if f64Sign x then -1 else 1) * (f64Mant x * 2 ^ (f64Scale x : ℤ)) := by
  rw [f64Units_eq, f64Magnitude]
  push_cast
  rw [zpow_natCast]

/-- A product in larger units, from mantissas and scales. -/
theorem f64Units_mul_eq (x y : F64) (k : Nat) :
    (f64Units x * f64Units y / 2 ^ k : ℚ) =
      if f64Sign x != f64Sign y then -(((f64Mant x * f64Mant y : ℕ) : ℚ) * 2 ^ ((f64Scale x : ℤ) + f64Scale y - k))
      else ((f64Mant x * f64Mant y : ℕ) : ℚ) * 2 ^ ((f64Scale x : ℤ) + f64Scale y - k) := by
  rw [ite_sign_bne, zpow_sub₀ two_ne_zero, zpow_add₀ two_ne_zero, zpow_natCast _ k, f64Units_eq_mant, f64Units_eq_mant]
  push_cast
  ring

theorem f64Mul_nearestEven {x y : F64} (hx : f64IsFinite x = true) (hy : f64IsFinite y = true)
    (hf : f64IsFinite (f64Mul x y) = true) : NearestEven (f64Mul x y) (f64Units x * f64Units y / 2 ^ 1074) := by
  have he : f64Mul x y = f64Round (f64Sign x != f64Sign y) (f64Mant x * f64Mant y)
      ((f64Scale x : Int) + f64Scale y - 2148) := by
    simp [f64Mul, f64IsNaN_of_isFinite hx, f64IsNaN_of_isFinite hy, f64IsInf_of_isFinite hx, f64IsInf_of_isFinite hy]
  rw [he] at hf ⊢
  rw [f64Units_mul_eq, show (f64Scale x : ℤ) + f64Scale y - (1074 : ℕ) = f64Scale x + f64Scale y - 2148 + 1074 by omega]
  exact f64Round_nearestEven (.inl rfl) hf

/-- A quotient to an integer and a sticky bit stands for twice the exact quotient. -/
theorem standsFor_quotient {n b : Nat} (hb : 0 < b) (hbig : n % b ≠ 0 → 2 ^ 53 ≤ n / b) :
    StandsFor (2 * (n / b) + if n % b = 0 then 0 else 1) (2 * n / b) := by
  have hb' : (0 : ℚ) < b := by exact_mod_cast hb
  have hn : (b * (n / b : ℕ) + (n % b : ℕ) : ℚ) = n := by exact_mod_cast Nat.div_add_mod n b
  have hr : ((n % b : ℕ) : ℚ) < b := by exact_mod_cast Nat.mod_lt n hb
  split
  case isTrue h0 =>
    left
    rw [div_eq_iff hb'.ne', ← hn, h0]
    push_cast
    ring
  case isFalse h0 =>
    have hr0 : (0 : ℚ) < (n % b : ℕ) := by exact_mod_cast Nat.pos_of_ne_zero h0
    have := hbig h0
    refine .inr ⟨by omega, by omega, ?_⟩
    have hd : (2 * n / b : ℚ) - (2 * (n / b) + 1 : ℕ) = (2 * (n % b : ℕ) - b) / b := by
      rw [← hn]
      push_cast
      field_simp
      ring
    rw [hd, abs_lt, lt_div_iff₀ hb', div_lt_iff₀ hb']
    constructor <;> linarith

/-- A quotient in smaller units, from mantissas and scales. -/
theorem f64Units_div_eq (x y : F64) (k : Nat) :
    (f64Units x * 2 ^ k / f64Units y : ℚ) =
      if f64Sign x != f64Sign y then
        -(2 * ((f64Mant x * 2 ^ 128 : ℕ) : ℚ) / f64Mant y * 2 ^ ((f64Scale x : ℤ) - f64Scale y - 129 + k))
      else 2 * ((f64Mant x * 2 ^ 128 : ℕ) : ℚ) / f64Mant y * 2 ^ ((f64Scale x : ℤ) - f64Scale y - 129 + k) := by
  have hinv : ∀ b : Bool, ((if b then -1 else 1 : ℚ))⁻¹ = if b then -1 else 1 := fun b => by cases b <;> norm_num
  rw [ite_sign_bne, zpow_add₀ two_ne_zero, zpow_sub₀ two_ne_zero, zpow_sub₀ two_ne_zero, zpow_natCast _ k, zpow_ofNat,
    f64Units_eq_mant, f64Units_eq_mant, div_eq_mul_inv, mul_inv, hinv, Nat.cast_mul, Nat.cast_pow, Nat.cast_ofNat]
  ring

theorem f64Div_of_isFinite {x y : F64} (hx : f64IsFinite x = true) (hy : f64IsFinite y = true) :
    f64Div x y =
      if f64IsZero y then if f64IsZero x then f64NaN .div x y else f64Inf (f64Sign x != f64Sign y)
      else f64Round (f64Sign x != f64Sign y)
        (2 * (f64Mant x * 2 ^ 128 / f64Mant y) + if f64Mant x * 2 ^ 128 % f64Mant y = 0 then 0 else 1)
        ((f64Scale x : Int) - f64Scale y - 129) := by
  simp only [f64Div, f64IsNaN_of_isFinite hx, f64IsNaN_of_isFinite hy, f64IsInf_of_isFinite hx, f64IsInf_of_isFinite hy,
    Bool.or_self, Bool.false_eq_true, if_false]

/-- The 128 bits that the dividend is shifted by leave at least 54 bits of quotient above the sticky bit. -/
theorem standsFor_f64Div (x : F64) {y : F64} (h0 : f64IsZero y = false) :
    StandsFor (2 * (f64Mant x * 2 ^ 128 / f64Mant y) + if f64Mant x * 2 ^ 128 % f64Mant y = 0 then 0 else 1)
      (2 * ((f64Mant x * 2 ^ 128 : ℕ) : ℚ) / f64Mant y) := by
  have hy0 : 0 < f64Mant y := Nat.pos_of_ne_zero fun h => by simp [f64Mant_eq_zero, h0] at h
  refine standsFor_quotient hy0 fun h => ?_
  have hx0 : f64Mant x ≠ 0 := fun hz => h (by simp [hz])
  have := f64Mant_lt y
  rw [Nat.le_div_iff_mul_le hy0]
  omega

/-- The quotient by zero is an infinity or a NaN. -/
theorem f64IsZero_of_div_isFinite {x y : F64} (hx : f64IsFinite x = true) (hy : f64IsFinite y = true)
    (hf : f64IsFinite (f64Div x y) = true) : f64IsZero y = false := by
  by_contra h0
  rw [f64Div_of_isFinite hx hy, if_pos (Bool.not_eq_false _ ▸ h0)] at hf
  split at hf
  · simpa [f64IsNaN_f64NaN] using f64IsNaN_of_isFinite hf
  · simp [f64Inf_not_isFinite] at hf

theorem f64Div_nearestEven {x y : F64} (hx : f64IsFinite x = true) (hy : f64IsFinite y = true)
    (hf : f64IsFinite (f64Div x y) = true) : NearestEven (f64Div x y) (f64Units x * 2 ^ 1074 / f64Units y) := by
  have h0 := f64IsZero_of_div_isFinite hx hy hf
  rw [f64Div_of_isFinite hx hy, if_neg (Bool.eq_false_iff.1 h0)] at hf ⊢
  rw [f64Units_div_eq, Nat.cast_ofNat]
  exact f64Round_nearestEven (standsFor_f64Div x h0) hf

/-! ## Division by a power of two -/

/-- A power of two converts exactly; the bound keeps its units within the largest scale, 2045. -/
theorem f64OfNat_two_pow {j : Nat} (hj : j ≤ 971) :
    f64IsFinite (f64OfNat (2 ^ j)) = true ∧ f64Units (f64OfNat (2 ^ j)) = 2 ^ (j + 1074) := by
  have hX : ((2 ^ j : ℕ) : ℚ) * 2 ^ (0 + 1074 : ℤ) = 2 ^ (j + 1074) := by
    rw [zero_add, pow_add, Nat.cast_pow, Nat.cast_ofNat, zpow_ofNat]
  have hf : f64IsFinite (f64OfNat (2 ^ j)) = true := f64Round_isFinite (.inl rfl) fun t ht => by
    rw [hX]
    calc (2 : ℚ) ^ (j + 1074) ≤ 2 ^ t := pow_le_pow_right₀ one_le_two (by omega)
      _ ≤ (2 ^ 53 - 1 : ℕ) * 2 ^ t := le_mul_of_one_le_left (by positivity) (by norm_num)
  have hn : NearestEven (f64OfNat (2 ^ j)) (2 ^ (j + 1074)) := hX ▸ f64Round_nearestEven (neg := false) (.inl rfl) hf
  have h63 : (j + 1022) * 2 ^ 52 + 2 ^ 52 < 2 ^ 63 := by omega
  have hv : f64Units (f64Pack false ((j + 1022) * 2 ^ 52 + 2 ^ 52)) = 2 ^ (j + 1074) := by
    rw [f64Units_eq, f64Sign_pack _ h63, f64Magnitude_pack (by norm_num) (by omega) (by omega), ← pow_add,
      show 52 + (j + 1022) = j + 1074 by omega, if_neg Bool.false_ne_true, one_mul, Nat.cast_pow, Nat.cast_ofNat]
  refine ⟨hf, ?_⟩
  rw [← hv]
  exact NearestEven.eq_of_units (by rwa [hv, Int.cast_pow, Int.cast_ofNat])

section DivN

variable {x : F64} (hx : f64IsFinite x = true) {j : Nat} (hj : j ≤ 971)

include hj

theorem f64Units_div_two_pow (x : F64) : (f64Units x * 2 ^ 1074 / f64Units (f64OfNat (2 ^ j)) : ℚ) = f64Units x / 2 ^ j := by
  rw [(f64OfNat_two_pow hj).2, Int.cast_pow, Int.cast_ofNat, pow_add, mul_div_mul_right _ _ (by positivity)]

include hx

theorem f64DivN_isFinite : f64IsFinite (f64DivN x (2 ^ j)) = true := by
  obtain ⟨hy, hU⟩ := f64OfNat_two_pow hj
  have h0 : f64IsZero (f64OfNat (2 ^ j)) = false := by
    rw [← Bool.not_eq_true, ← f64Units_eq_zero, hU]
    positivity
  rw [f64DivN, f64Div_of_isFinite hx hy, if_neg (Bool.eq_false_iff.1 h0)]
  refine f64Round_isFinite (standsFor_f64Div x h0) fun t ht => ?_
  have hq := f64Units_div_eq x (f64OfNat (2 ^ j)) 1074
  rw [f64Units_div_two_pow hj, Nat.cast_ofNat] at hq
  calc _ ≤ |(f64Units x / 2 ^ j : ℚ)| := by
        rw [hq]
        split
        · rw [abs_neg]
          exact le_abs_self _
        · exact le_abs_self _
    _ ≤ |(f64Units x : ℚ)| := by
        rw [abs_div, abs_of_pos (show (0 : ℚ) < 2 ^ j by positivity)]
        exact div_le_self (abs_nonneg _) (one_le_pow₀ one_le_two)
    _ = f64Magnitude x := by rw [← natAbs_f64Units, Nat.cast_natAbs, Int.cast_abs]
    _ ≤ (2 ^ 53 - 1 : ℕ) * 2 ^ t := by exact_mod_cast f64Magnitude_le hx ht

theorem f64DivN_nearestEven : NearestEven (f64DivN x (2 ^ j)) (f64Units x / 2 ^ j) := by
  rw [← f64Units_div_two_pow hj]
  exact f64Div_nearestEven hx (f64OfNat_two_pow hj).1 (f64DivN_isFinite hx hj)

end DivN

/-- Settles O36: each operation is one rounding of the exact result. -/
theorem roundsToNearestEven : Obligations.RoundsToNearestEven := by
  intro x y v hx hy _
  have hpow : ∀ k : Nat, (((2 ^ k : ℤ)) : ℚ) = 2 ^ k := fun k => by rw [Int.cast_pow, Int.cast_ofNat]
  have hpow0 : ∀ k : Nat, (((2 ^ k : ℤ)) : ℚ) ≠ 0 := fun k => by rw [hpow]; positivity
  refine ⟨fun hf => ?_, fun hf => ?_, fun hf => ?_, fun hf => ?_, fun j hj => ⟨f64DivN_isFinite hx (by omega), ?_⟩⟩
  · simpa only [mul_one] using (f64Add_nearestEven hx hy hf).scaled (c := 1) (by simp) (by simp) v
  · simpa only [mul_one] using (f64Sub_nearestEven hx hy hf).scaled (c := 1) (by simp) (by simp) v
  · refine (f64Mul_nearestEven hx hy hf).scaled (hpow0 1074) ?_ v
    rw [hpow, div_mul_cancel₀ _ (by positivity), Int.cast_mul]
  · have hy0 : (f64Units y : ℚ) ≠ 0 := by
      rw [Int.cast_ne_zero, Ne, f64Units_eq_zero, f64IsZero_of_div_isFinite hx hy hf]
      decide
    refine (f64Div_nearestEven hx hy hf).scaled hy0 ?_ v
    rw [div_mul_cancel₀ _ hy0, Int.cast_mul, hpow]
  · refine (f64DivN_nearestEven hx (by omega)).scaled (hpow0 j) ?_ v
    rw [hpow, div_mul_cancel₀ _ (by positivity)]

end Sys2Proof.Machine
end

section
/-! The complex primitives: their results by destination, and the laws of the machine's numerics (40_complex_arith.md R103 to
R110). -/

namespace Sys2Proof.Machine

/-! ## The results of the primitives -/

section Results

variable {dst a b : COperand} {s : State} {x y : Cplx F64}

/-- A result that has a destination is put there, and nothing else changes. -/
theorem writeOperand_putResult (v : Cplx F64) (h : DestinationExists dst s) :
    ∃ t, onDatapath (writeOperand dst v) s = .next t ∧ PutResult dst v s t := by
  cases dst with
  | reg c => exact ⟨_, rfl, by cases c <;> rfl⟩
  | elem m k =>
    have hw := memWrite_eq v h
    exact ⟨_, onDatapath_of_ok hw, rfl, by simp, by simp [sameFixed], memWrite_get hw⟩

theorem prim1_putResult (f : Cplx F64 → Cplx F64) (ha : readOperand numB64 a s.dp = .ok x) (h : DestinationExists dst s) :
    ∃ t, onDatapath (prim1 numB64 f dst a) s = .next t ∧ PutResult dst (f x) s t := by
  have he : onDatapath (prim1 numB64 f dst a) s = onDatapath (writeOperand dst (f x)) s := by
    simp [onDatapath, prim1, ha]
  rw [he]
  exact writeOperand_putResult (f x) h

theorem prim2_putResult (f : Cplx F64 → Cplx F64 → Cplx F64) (ha : readOperand numB64 a s.dp = .ok x)
    (hb : readOperand numB64 b s.dp = .ok y) (h : DestinationExists dst s) :
    ∃ t, onDatapath (prim2 numB64 f dst a b) s = .next t ∧ PutResult dst (f x y) s t := by
  have he : onDatapath (prim2 numB64 f dst a b) s = onDatapath (writeOperand dst (f x y)) s := by
    simp [onDatapath, prim2, ha, hb]
  rw [he]
  exact writeOperand_putResult (f x y) h

end Results

theorem cexp_numB64 (sg : Sign) (p q : Nat) :
    cexp numB64 sg p q = ⟨f64CosPi p q, if sg = .pos then f64SinPi p q else f64Neg (f64SinPi p q)⟩ := by
  cases sg <;> rfl

/-- Settles O33: each is a primitive of two operands. -/
theorem binaryPrimitiveResults : Obligations.BinaryPrimitiveResults := fun _ _ _ _ _ _ ha hb h =>
  ⟨prim2_putResult (cadd numB64) ha hb h, prim2_putResult (csub numB64) ha hb h, prim2_putResult (cmul numB64) ha hb h⟩

/-- Settles O34: czero and cexp put a value, conj and cdivn are primitives of one operand. -/
theorem unaryPrimitiveResults : Obligations.UnaryPrimitiveResults := by
  intro dst a s x sg p q l ha h
  refine ⟨writeOperand_putResult (czero numB64) h, prim1_putResult (conj numB64) ha h, ?_,
    prim1_putResult (fun z => cdivn numB64 z l) ha h⟩
  rw [← cexp_numB64]
  exact writeOperand_putResult (cexp numB64 sg p q) h

/-! ## The laws of the numerics -/

theorem f64NaNComm_comm (op : NumOp) (x y : F64) : f64NaNComm op x y = f64NaNComm op y x := by
  rcases Nat.lt_trichotomy x.toNat y.toNat with h | h | h
  · rw [f64NaNComm, f64NaNComm, if_pos h.le, if_neg (by omega)]
  · rw [BitVec.eq_of_toNat_eq h]
  · rw [f64NaNComm, f64NaNComm, if_neg (by omega), if_pos h.le]

/-- Infinities of one sign are equal. -/
theorem f64_eq_of_isInf {x y : F64} (hx : f64IsInf x = true) (hy : f64IsInf y = true) (hs : f64Sign x = f64Sign y) : x = y := by
  simp only [f64IsInf, Bool.and_eq_true, beq_iff_eq] at hx hy
  exact f64_ext hs (hx.1.trans hy.1.symm) (hx.2.trans hy.2.symm)

theorem f64SumOr_comm (nan x y : F64) : f64SumOr nan x y = f64SumOr nan y x := by
  unfold f64SumOr
  cases hx : f64IsInf x <;> cases hy : f64IsInf y
  case true.true =>
    by_cases hs : f64Sign x = f64Sign y
    · rw [f64_eq_of_isInf hx hy hs]
    · simp [hs, Ne.symm hs]
  case false.false => simp [Int.add_comm (f64Units x), Bool.and_comm (f64IsZero x), Bool.and_comm (f64Sign x)]
  all_goals simp

theorem f64Add_comm (x y : F64) : f64Add x y = f64Add y x := by
  rw [f64Add, f64Add, f64NaNComm_comm, Bool.or_comm, f64SumOr_comm]

theorem f64Mul_comm (x y : F64) : f64Mul x y = f64Mul y x := by
  rw [f64Mul, f64Mul, f64NaNComm_comm, Bool.or_comm (f64IsNaN x), Bool.or_comm (f64IsInf x), Bool.or_comm (f64IsZero x),
    Nat.mul_comm (f64Mant x), Int.add_comm (f64Scale x : Int), bne_comm]

theorem cmul_numB64_comm (a b : Cplx F64) : cmul numB64 a b = cmul numB64 b a := by
  simp only [cmul, numB64, Cplx.mk.injEq]
  exact ⟨by rw [f64Mul_comm a.re, f64Mul_comm a.im], by rw [f64Add_comm, f64Mul_comm a.re, f64Mul_comm a.im]⟩

theorem cexp_pos_eq_conj (p q : Nat) : cexp numB64 .pos p q = conj numB64 (cexp numB64 .neg p q) := by
  simp [cexp, conj, numB64, f64Neg_neg]

/-- The angle zero: one, and a zero of either sign. -/
theorem cexp_zero (sg : Sign) (q : Nat) :
    (cexp numB64 sg 0 q).re = 0x3FF0000000000000#64 ∧ f64IsZero (cexp numB64 sg 0 q).im = true := by
  have hone : f64CosPi 0 q = 0x3FF0000000000000#64 := by
    rw [f64CosPi, if_pos rfl]
    decide
  have hzero : f64IsZero (f64SinPi 0 q) = true := by
    rw [f64SinPi, if_pos rfl]
    cases Config.sinZeroSign q <;> decide
  have hneg : f64IsZero (f64Neg (f64SinPi 0 q)) = true := by
    rw [f64IsZero, f64Exp_neg, f64Frac_neg]
    exact hzero
  rw [cexp_numB64]
  refine ⟨hone, ?_⟩
  dsimp only
  split
  · exact hzero
  · exact hneg

/-- Settles O35: `rneg` undoes itself, the angle is zero at p = 0, and the sum and the products commute. -/
theorem numericLaws : Obligations.NumericLaws := ⟨cexp_pos_eq_conj, cexp_zero, cmul_numB64_comm⟩

end Sys2Proof.Machine
end

section
/-! The permutation of BITREV: reversal is its own inverse (00_scope.md R8, 41_permute.md R126, R130), and what is permuted after
some turns of the loop (R129). -/

namespace Sys2Proof.Machine

/-- The reversal one bit longer, by the top bit instead of the bottom one. -/
theorem revBits_succ_top {k b r : Nat} (hb : b < 2) (hr : r < 2 ^ k) :
    revBits (k + 1) (b * 2 ^ k + r) = 2 * revBits k r + b := by
  induction k generalizing r with
  | zero =>
    obtain rfl : r = 0 := by simpa using hr
    simp [revBits, Nat.mod_eq_of_lt hb]
  | succ k ih =>
    have htop : b * 2 ^ (k + 1) = 2 * (b * 2 ^ k) := by ring
    have hmod : (b * 2 ^ (k + 1) + r) % 2 = r % 2 := by omega
    have hdiv : (b * 2 ^ (k + 1) + r) / 2 = b * 2 ^ k + r / 2 := by omega
    rw [revBits, hmod, hdiv, ih (by rw [pow_succ] at hr; omega), revBits, pow_succ]
    ring

/-- R126: the reversal is its own inverse. -/
theorem revBits_revBits {k i : Nat} (hi : i < 2 ^ k) : revBits k (revBits k i) = i := by
  induction k generalizing i with
  | zero =>
    obtain rfl : i = 0 := by simpa using hi
    rfl
  | succ k ih =>
    have hhalf : i / 2 < 2 ^ k := by rw [pow_succ] at hi; omega
    have hout : revBits (k + 1) i = i % 2 * 2 ^ k + revBits k (i / 2) := rfl
    rw [hout, revBits_succ_top (Nat.mod_lt i two_pos) (revBits_lt k _), ih hhalf]
    exact Nat.div_add_mod i 2

/-- After `i` turns of BITREV at length 2^k: the index whose element stands at `x`. The pairs with an index below `i` have been
exchanged. -/
def permSource (k i x : Nat) : Nat := if x < 2 ^ k ∧ (x < i ∨ revBits k x < i) then revBits k x else x

theorem permSource_zero (k x : Nat) : permSource k 0 x = x := by simp [permSource]

theorem permSource_of_not_lt {k i x : Nat} (hx : ¬ x < 2 ^ k) : permSource k i x = x := by simp [permSource, hx]

/-- After all turns every index below 2^k is exchanged with its reversal. -/
theorem permSource_full {k x : Nat} (hx : x < 2 ^ k) : permSource k (2 ^ k) x = revBits k x := by simp [permSource, hx]

/-- The turn at `i` concerns no index but `i` and its reversal. -/
theorem permSource_succ_other {k i x : Nat} (hi : x ≠ i) (hj : x ≠ revBits k i) :
    permSource k (i + 1) x = permSource k i x := by
  by_cases hx : x < 2 ^ k
  · have hr : revBits k x ≠ i := fun h => hj (by rw [← h, revBits_revBits hx])
    have h1 : x < i + 1 ↔ x < i := by omega
    have h2 : revBits k x < i + 1 ↔ revBits k x < i := by omega
    simp only [permSource, h1, h2]
  · rw [permSource_of_not_lt hx, permSource_of_not_lt hx]

/-- R129: a turn below its reversal exchanges the two. -/
theorem permSource_succ_of_lt {k i : Nat} (hi : i < 2 ^ k) (hij : i < revBits k i) (x : Nat) :
    permSource k (i + 1) x = permSource k i (Equiv.swap i (revBits k i) x) := by
  have hr := revBits_revBits hi
  have hj := revBits_lt k i
  by_cases hxi : x = i
  · subst hxi
    rw [Equiv.swap_apply_left, permSource, if_pos ⟨hi, .inl x.lt_succ_self⟩, permSource, if_neg (by omega)]
  · by_cases hxj : x = revBits k i
    · subst hxj
      rw [Equiv.swap_apply_right, permSource, if_pos ⟨hj, .inr (by omega)⟩, hr, permSource, if_neg (by omega)]
    · rw [Equiv.swap_apply_of_ne_of_ne hxi hxj, permSource_succ_other hxi hxj]

/-- R129: the other turns change nothing: the pair has been exchanged, or the index is its own reversal. -/
theorem permSource_succ_of_not_lt {k i : Nat} (hi : i < 2 ^ k) (hij : ¬ i < revBits k i) (x : Nat) :
    permSource k (i + 1) x = permSource k i x := by
  have hr := revBits_revBits hi
  by_cases hxi : x = i
  · subst hxi
    simp only [permSource]
    split_ifs <;> omega
  · by_cases hxj : x = revBits k i
    · subst hxj
      simp only [permSource, hr]
      split_ifs <;> omega
    · exact permSource_succ_other hxi hxj

end Sys2Proof.Machine
end

section
/-! SWAP and a turn of BITREV (41_permute.md R127, R128). -/

namespace Sys2Proof.Machine

variable {R : Type} {nm : Num R} {d d' : Datapath R}

theorem memRead_lt_size {m : MemId} {k : Nat} {v : Cplx R} (h : memRead nm m k d = .ok v) : k < d.size m := by
  by_contra hk
  rw [memRead, if_neg hk] at h
  cases h

/-- A read that no protocol fault spoils gives what is written. -/
theorem get_of_memRead {m : MemId} {k : Nat} {v : Cplx R} (hp : readable d m) (h : memRead nm m k d = .ok v) :
    Mem.get (d.mem m) k = some v := by
  cases hg : Mem.get (d.mem m) k with
  | none =>
    rw [memRead_unwritten (memRead_lt_size h) hp hg] at h
    cases h
  | some u =>
    rw [memRead_written (memRead_lt_size h) hp hg] at h
    exact congrArg some (Except.ok.inj h)

/-- All that SWAP can answer with a datapath. -/
theorem swap_ok_iff {m : MemSel} {a b : Nat} :
    swap nm m a b d = .ok d' ↔ ∃ x y, memRead nm (memOf m) a d = .ok x ∧ memRead nm (memOf m) b d = .ok y ∧
      d' = (d.withRegs (fun r => { r with t := x, z := y })).setMem (memOf m)
        (Mem.set (Mem.set (d.mem (memOf m)) a y) b x) := by
  constructor
  · intro h
    have hreads := h
    simp only [swap, except_bind_eq_ok] at hreads
    obtain ⟨x, hx, y, hy, -⟩ := hreads
    rw [swap_of_reads hx hy (memRead_lt_size hx) (memRead_lt_size hy)] at h
    exact ⟨x, y, hx, hy, (Except.ok.inj h).symm⟩
  · rintro ⟨x, y, hx, hy, rfl⟩
    exact swap_of_reads hx hy (memRead_lt_size hx) (memRead_lt_size hy)

/-- R128: SWAP exchanges the two elements. -/
theorem swap_get {m : MemSel} {a b : Nat} (hp : readable d (memOf m)) (h : swap nm m a b d = .ok d') (k : Nat) :
    Mem.get (d'.mem (memOf m)) k = Mem.get (d.mem (memOf m)) (Equiv.swap a b k) := by
  obtain ⟨x, y, hx, hy, rfl⟩ := swap_ok_iff.1 h
  rw [Datapath.mem_setMem_same]
  by_cases hb : k = b
  · rw [hb, Mem.get_set_same, Equiv.swap_apply_right, get_of_memRead hp hx]
  · rw [Mem.get_set_other _ _ hb]
    by_cases ha : k = a
    · rw [ha, Mem.get_set_same, Equiv.swap_apply_left, get_of_memRead hp hy]
    · rw [Mem.get_set_other _ _ ha, Equiv.swap_apply_of_ne_of_ne ha hb]

/-- SWAP answers where both elements are written. -/
theorem swap_of_written {m : MemSel} {a b : Nat} (hp : readable d (memOf m)) (ha : a < d.size (memOf m))
    (hb : b < d.size (memOf m)) (hwa : (Mem.get (d.mem (memOf m)) a).isSome = true)
    (hwb : (Mem.get (d.mem (memOf m)) b).isSome = true) : ∃ d', swap nm m a b d = .ok d' := by
  obtain ⟨x, hx⟩ := memRead_isSome (nm := nm) ha hp hwa
  obtain ⟨y, hy⟩ := memRead_isSome (nm := nm) hb hp hwb
  exact ⟨_, swap_of_reads hx hy ha hb⟩

/-- Settles O24: what SWAP answers is known from its two reads, and it stops where one of them stops. -/
theorem swapExchanges : Obligations.SwapExchanges := by
  refine ⟨fun m a b s x y hab hx hy => ?_, fun m a b s hp ha hb hu => ?_⟩
  · have h := swap_of_reads hx hy (memRead_lt_size hx) (memRead_lt_size hy)
    refine ⟨_, onDatapath_of_ok h, fun m' k => ?_, by simp, (swap_touches h).fixed⟩
    by_cases hm : m' = memOf m
    · subst hm
      simp only [Datapath.mem_setMem_same, Mem.get_set, true_and]
      by_cases ha : k = a
      · simp [ha, hab.ne]
      · simp [ha]
    · simp [hm, Datapath.mem_setMem_other _ _ hm]
  · refine onDatapath_of_error ?_
    cases hga : Mem.get (s.dp.mem (memOf m)) a with
    | none => exact swap_of_first_error (memRead_unwritten ha hp hga)
    | some x =>
      have hgb := hu.resolve_left (by simp [hga])
      exact swap_of_second_error (memRead_written ha hp hga) (memRead_unwritten hb hp hgb)

/-- A routine whose length is a power of two runs. -/
theorem onPow2_two_pow (k : Nat) (f : Datapath R → Except Fault (Datapath R)) (s : State.Of R) :
    onPow2 (2 ^ k) f s = onDatapath f s := if_pos ((isPow2_iff _).2 ⟨k, rfl⟩)

/-- R131: a routine of any other length is refused. -/
theorem onPow2_of_ne_two_pow {n : Nat} (hn : ∀ k, n ≠ 2 ^ k) (f : Datapath R → Except Fault (Datapath R))
    (s : State.Of R) : onPow2 n f s = .refused .lengthNotPowerOfTwo :=
  if_neg fun h => ((isPow2_iff n).1 h).elim hn

/-- Settles O38: the three are routines, and a routine is refused where its length is no power of two. -/
theorem routinesRefuseOtherLengths : Obligations.RoutinesRefuseOtherLengths := fun _ _ _ s hn =>
  ⟨onPow2_of_ne_two_pow hn _ s, onPow2_of_ne_two_pow hn _ s, onPow2_of_ne_two_pow hn _ s⟩

/-- The exchange of a turn of BITREV, before its counters advance. -/
def permExchange (nm : Num R) (d : Datapath R) : Except Fault (Datapath R) :=
  if d.r.i < d.r.j then swap nm d.r.msel d.r.i d.r.j d else .ok d

/-- A turn of BITREV is its exchange, then the advance of the counters. -/
theorem permTurn_eq (nm : Num R) (d : Datapath R) :
    permTurn nm d = permExchange nm d >>= fun d1 => .ok (d1.withRegs Regs.nextPerm) := by
  by_cases h : d.r.i < d.r.j <;> simp only [permTurn, permExchange, h, if_true, if_false]

theorem permTurn_ok_iff :
    permTurn nm d = .ok d' ↔ ∃ d1, permExchange nm d = .ok d1 ∧ d' = d1.withRegs Regs.nextPerm := by
  simp only [permTurn_eq, except_bind_eq_ok, Except.ok.injEq, eq_comm (b := d')]

theorem permExchange_touches (h : permExchange nm d = .ok d') : ∃ ks, Touches (memOf d.r.msel) ks d d' := by
  unfold permExchange at h
  split at h
  · exact ⟨_, swap_touches h⟩
  · obtain rfl := Except.ok.inj h
    exact ⟨[], .refl _ d⟩

end Sys2Proof.Machine
end

section
/-! BITREV (41_permute.md R126, R127, R129, R130): its loop permutes the memory step by step. -/

namespace Sys2Proof.Machine

variable {R : Type} {nm : Num R} {m : MemSel} {k i : Nat} {d d' e e' : Datapath R}

/-- If a loop answers and every turn that answers takes a property of (turns done, state) one further, the end has it. -/
theorem repeatE_counts {α : Type} {f : α → Except Fault α} {n : Nat} (P : Nat → α → Prop)
    (hstep : ∀ i a b, i < n → P i a → f a = .ok b → P (i + 1) b) {a b : α} (ha : P 0 a) (h : repeatE f n a = .ok b) :
    P n b := by
  obtain ⟨c, -, hc, hn⟩ := repeatE_invariant (f := f) (n := n) (fun i a => P i a ∧ repeatE f (n - i) a = .ok b)
    (fun i a hi ⟨hp, hrun⟩ => by
      rw [show n - i = n - (i + 1) + 1 by omega, repeatE_succ, except_bind_eq_ok] at hrun
      obtain ⟨c, hc, hrest⟩ := hrun
      exact ⟨c, hc, hstep i a c hi hp hc, hrest⟩) 0 a (Nat.zero_le n) ⟨ha, h⟩
  rw [Nat.sub_self, repeatE_zero] at hn
  exact Except.ok.inj hn ▸ hc

/-- R129: `e` is `d` after `i` turns of BITREV(m, 2^k), with the counters of the loop. -/
structure Permuted (m : MemSel) (k i : Nat) (d e : Datapath R) : Prop where
  fixed : sameFixed d e
  command : sameCommandRegs d.r e.r
  msel : e.r.msel = m
  nn : e.r.nn = 2 ^ k
  pos : e.r.i = i
  counter : i < 2 ^ k → e.r.j = revBits k i
  other : ∀ m', m' ≠ memOf m → e.mem m' = d.mem m'
  get : ∀ x, Mem.get (e.mem (memOf m)) x = Mem.get (d.mem (memOf m)) (permSource k i x)

namespace Permuted

theorem start (m : MemSel) (k : Nat) (d : Datapath R) : Permuted m k 0 d (d.withRegs (Regs.startPerm m (2 ^ k))) where
  fixed := ⟨rfl, rfl, rfl⟩
  command := ⟨rfl, rfl, rfl, rfl, rfl⟩
  msel := rfl
  nn := rfl
  pos := rfl
  counter _ := (revBits_zero_right k).symm
  other m' _ := by simp
  get x := by simp [permSource_zero]

theorem size_eq (h : Permuted m k i d e) (m' : MemId) : e.size m' = d.size m' := by
  cases m' <;> simp only [Datapath.size, h.fixed.1]

theorem stays_readable (h : Permuted m k i d e) {m' : MemId} (hp : readable d m') : readable e m' :=
  hp.imp_left h.fixed.2.1.trans

/-- The exchange of a turn makes one step of the permutation. -/
theorem exchange_get (h : Permuted m k i d e) (hi : i < 2 ^ k) (hp : readable d (memOf m))
    (he : permExchange nm e = .ok e') (x : Nat) :
    Mem.get (e'.mem (memOf m)) x = Mem.get (d.mem (memOf m)) (permSource k (i + 1) x) := by
  rw [permExchange, h.msel, h.pos, h.counter hi] at he
  split at he
  case isTrue hij => rw [swap_get (h.stays_readable hp) he, h.get, permSource_succ_of_lt hi hij]
  case isFalse hij => rw [← Except.ok.inj he, h.get, permSource_succ_of_not_lt hi hij]

/-- A turn of BITREV that answers is the next turn. -/
theorem turn (h : Permuted m k i d e) (hi : i < 2 ^ k) (hp : readable d (memOf m)) (ht : permTurn nm e = .ok e') :
    Permuted m k (i + 1) d e' := by
  obtain ⟨e1, he, rfl⟩ := permTurn_ok_iff.1 ht
  obtain ⟨ks, htouch⟩ := permExchange_touches he
  obtain ⟨hpar, hpf, hdraws⟩ := htouch.fixed
  have hr := htouch.regs
  exact
    { fixed := ⟨hpar.trans h.fixed.1, hpf.trans h.fixed.2.1, hdraws.trans h.fixed.2.2⟩
      command := by rw [Datapath.withRegs_r, hr]; exact h.command
      msel := by rw [Datapath.withRegs_r, hr]; exact h.msel
      nn := by rw [Datapath.withRegs_r, hr]; exact h.nn
      pos := by rw [Datapath.withRegs_r, hr]; exact congrArg (· + 1) h.pos
      counter := fun hlt => by
        have hj : e1.r.nextPerm.j = (mirrorAdvance e.r.nn e.r.j).1 := by rw [hr]; rfl
        rw [Datapath.withRegs_r, hj, h.nn, h.counter hi]
        exact mirrorAdvance_rev hlt
      other := fun m' hm => by
        rw [Datapath.withRegs_mem, htouch.other m' (by rwa [h.msel]), h.other m' hm]
      get := fun x => by rw [Datapath.withRegs_mem]; exact h.exchange_get hi hp he x }

/-- A turn answers where the elements it exchanges were written at the start. -/
theorem turn_answers (nm : Num R) (h : Permuted m k i d e) (hi : i < 2 ^ k) (hp : readable d (memOf m))
    (hsize : 2 ^ k ≤ d.size (memOf m))
    (hw : ∀ x, x < 2 ^ k → revBits k x ≠ x → (Mem.get (d.mem (memOf m)) x).isSome = true) :
    ∃ e', permTurn nm e = .ok e' := by
  have hj := revBits_lt k i
  have hrr := revBits_revBits hi
  suffices ∃ e1, permExchange nm e = .ok e1 by
    obtain ⟨e1, he⟩ := this
    exact ⟨_, permTurn_ok_iff.2 ⟨e1, he, rfl⟩⟩
  rw [permExchange, h.msel, h.pos, h.counter hi]
  split
  case isFalse => exact ⟨e, rfl⟩
  case isTrue hij =>
    have hsi : permSource k i i = i := if_neg (by omega)
    have hsj : permSource k i (revBits k i) = revBits k i := if_neg (by omega)
    refine swap_of_written (h.stays_readable hp) ?_ ?_ ?_ ?_
    · rw [h.size_eq]; omega
    · rw [h.size_eq]; omega
    · rw [h.get, hsi]; exact hw i hi (by omega)
    · rw [h.get, hsj]; exact hw _ hj (by omega)

/-- After all turns: element `x` is the element at its reversal. -/
theorem get_full (h : Permuted m k (2 ^ k) d e) {x : Nat} (hx : x < 2 ^ k) :
    Mem.get (e.mem (memOf m)) x = Mem.get (d.mem (memOf m)) (revBits k x) := by rw [h.get, permSource_full hx]

/-- After all turns: the element at `x` has moved to its reversal. -/
theorem get_revBits (h : Permuted m k (2 ^ k) d e) {x : Nat} (hx : x < 2 ^ k) :
    Mem.get (e.mem (memOf m)) (revBits k x) = Mem.get (d.mem (memOf m)) x := by
  rw [h.get_full (revBits_lt k x), revBits_revBits hx]

/-- No turn changes anything outside M[0..2^k-1]. -/
theorem sameBut (h : Permuted m k i d e) : Machine.sameBut d e (memOf m) (2 ^ k) := by
  intro m' x hx
  by_cases hm : m' = memOf m
  · subst hm
    rw [h.get, permSource_of_not_lt fun hlt => hx ⟨rfl, hlt⟩]
  · rw [h.other m' hm]

end Permuted

/-- R126: a run of BITREV that answers has permuted the memory. -/
theorem bitrev_permuted (hp : readable d (memOf m)) (h : bitrev nm m (2 ^ k) d = .ok e) : Permuted m k (2 ^ k) d e :=
  repeatE_counts (fun i => Permuted m k i d) (fun _ _ _ hi hi' ht => hi'.turn hi hp ht) (.start m k d) h

/-- R126, R129: BITREV completes where the elements whose index is not its own reversal are written. -/
theorem bitrev_completes (nm : Num R) (hp : readable d (memOf m)) (hsize : 2 ^ k ≤ d.size (memOf m))
    (hw : ∀ x, x < 2 ^ k → revBits k x ≠ x → (Mem.get (d.mem (memOf m)) x).isSome = true) :
    ∃ e, bitrev nm m (2 ^ k) d = .ok e := by
  obtain ⟨e, he, -⟩ := repeatE_invariant (f := permTurn nm) (fun i => Permuted m k i d)
    (fun i a hi h => by
      obtain ⟨b, hb⟩ := h.turn_answers nm hi hp hsize hw
      exact ⟨b, hb, h.turn hi hp hb⟩) 0 _ (Nat.zero_le _) (.start m k d)
  exact ⟨e, he⟩

/-- Settles O39: BITREV completes, and what it leaves is `Permuted` after all turns. -/
theorem bitrevContract : Obligations.BitrevContract := by
  intro m k s hp hsize hw
  obtain ⟨e, he⟩ := bitrev_completes numB64 hp hsize hw
  have h := bitrev_permuted hp he
  exact ⟨e, (onPow2_two_pow k _ s).trans (onDatapath_of_ok he), fun i hi => h.get_revBits hi, h.sameBut, h.fixed, h.command⟩

/-- Settles O40: two reversals of an index below 2^k are none, and elsewhere neither run changes anything. -/
theorem bitrevInvolution : Obligations.BitrevInvolution := by
  intro R nm m k d d1 d2 hp _ h1 h2 m' i
  have p1 := bitrev_permuted hp h1
  have p2 := bitrev_permuted (p1.stays_readable hp) h2
  by_cases hi : m' = memOf m ∧ i < 2 ^ k
  · obtain ⟨rfl, hi⟩ := hi
    rw [p2.get_full hi, p1.get_full (revBits_lt k i), revBits_revBits hi]
  · exact (p2.sameBut m' i hi).trans (p1.sameBut m' i hi)

end Sys2Proof.Machine
end

section
/-! The sequencer runs BITREV turn by turn (10_state.md R27, 41_permute.md R125, R127), and the command PERMUTE. -/

namespace Sys2Proof.Machine

variable {R : Type} {nm : Num R} {s : State.Of R} {d : Datapath R}

/-! ## Turns of BITREV as steps -/

/-- Nothing is drawn while PFAULT = 0. -/
theorem redraw_of_not_pfault (h : s.dp.pfault = false) : redraw s = s := if_neg (by simp [h])

theorem microDp_of_routine (nm : Num R) (hr : s.seq.isRoutine = true) : microDp nm s = routineDp nm s := by
  rcases Phase.routine_cases hr with hs | hs | hs | hs | hs | hs <;> simp [microDp, hs]

theorem routineDp_of_perm (nm : Num R) (hu : s.upos = .perm) : routineDp nm s = permExchange nm s.dp := by
  simp only [routineDp, permExchange, hu]

/-- What a turn of BITREV leaves of PFAULT and of the length, and how it moves the position. -/
theorem permTurn_frame (h : permTurn nm s.dp = .ok d) :
    d.pfault = s.dp.pfault ∧ d.r.nn = s.dp.r.nn ∧ d.r.i = s.dp.r.i + 1 := by
  obtain ⟨d1, he, rfl⟩ := permTurn_ok_iff.1 h
  obtain ⟨ks, ht⟩ := permExchange_touches he
  have hr := ht.regs
  refine ⟨ht.fixed.2.1, ?_, ?_⟩ <;> rw [Datapath.withRegs_r, hr] <;> rfl

/-- The sequencer is busy at the test of a turn of BITREV, in a phase whose routine is BITREV or FFT2, and PFAULT = 0. -/
structure AtTurn (s : State.Of R) : Prop where
  busy : s.busy = true
  routine : s.seq.isRoutine = true
  upos : s.upos = .perm
  pfault : s.dp.pfault = false

/-- A step there is a turn of BITREV; after the last one BITREV has ended. -/
theorem AtTurn.step (hs : AtTurn s) (h : permTurn nm s.dp = .ok d) :
    coreStepBy (perform nm) s =
      .next (if d.r.i < d.r.nn then { s with dp := d } else endPerm { s with dp := d }) := by
  obtain ⟨hpf, -⟩ := permTurn_frame h
  obtain ⟨d1, he, rfl⟩ := permTurn_ok_iff.1 h
  refine (coreStepBy_next_iff hs.busy).2 ⟨d1, ?_, ?_⟩
  · rw [microDp_of_routine nm hs.routine, routineDp_of_perm nm hs.upos, he]
  · have hadv : advancePhase { s with dp := d1 } = advancePerm { s with dp := d1 } := by
      rw [advancePhase_of_routine (s := { s with dp := d1 }) hs.routine]
      simp only [advanceRoutine, hs.upos]
    rw [advance, redraw_of_not_pfault (by simpa using hpf.trans hs.pfault), hadv]
    rfl

/-- The turns of BITREV that are left, run by the sequencer, are the loop of BITREV; then BITREV has ended. -/
theorem AtTurn.run {cf : Setup R} {j : Nat} (hs : AtTurn s) (hscript : s.script = []) (hleft : s.dp.r.i + (j + 1) = s.dp.r.nn)
    (h : repeatE (permTurn cf.num) (j + 1) s.dp = .ok d) :
    Host.Core.run (machineOf cf) (j + 1) s = .next (endPerm { s with dp := d }) := by
  induction j generalizing s with
  | zero =>
    rw [repeatE_succ, except_bind_eq_ok] at h
    obtain ⟨d1, hturn, hend⟩ := h
    obtain rfl := Except.ok.inj hend
    obtain ⟨-, hnn, hi⟩ := permTurn_frame hturn
    have hstep := hs.step hturn
    rw [if_neg (by omega)] at hstep
    exact run_succ_of_next (M := machineOf cf) ((stepBy_nil hscript).trans hstep) 0
  | succ j ih =>
    rw [repeatE_succ, except_bind_eq_ok] at h
    obtain ⟨d1, hturn, hrest⟩ := h
    obtain ⟨hpf, hnn, hi⟩ := permTurn_frame hturn
    have hstep := hs.step hturn
    rw [if_pos (by omega)] at hstep
    have hs' : AtTurn { s with dp := d1 } := ⟨hs.busy, hs.routine, hs.upos, hpf.trans hs.pfault⟩
    refine (run_succ_of_next (M := machineOf cf) ((stepBy_nil hscript).trans hstep) (j + 1)).trans ?_
    exact ih hs' hscript (show d1.r.i + (j + 1) = d1.r.nn by omega) hrest

/-! ## The command PERMUTE -/

/-- A run of the machine at NUM_b64 is a run of `core`. -/
theorem run_core_eq (j : Nat) (s : State) : Host.Core.run core j s = Host.Core.run (machineOf setupB64) j s := by
  induction j generalizing s with
  | zero => rfl
  | succ j ih =>
    have hstep : core.step s = (machineOf setupB64).step s := congrFun step_eq s
    simp only [Host.Core.run, hstep]
    cases (machineOf setupB64).step s with
    | next s' => exact ih s'
    | fault e => rfl
    | refused e => rfl

/-- R197: an acceptable command of a ready core passes the checks and is accepted. -/
theorem issueLegal_acceptable {op n : Nat} (inv : Bool) (hop : op < 3) (hs : s.Ready) (h : acceptable s.dp.par op n) :
    issueLegal (assemble n 0 inv op) s = .next (acceptCommand (beginCommand (assemble n 0 inv op) s)) := by
  obtain ⟨h2, hlt, hpow, hmax, hpad⟩ := h
  obtain ⟨hl, -, -, ho⟩ := fields_assemble_command (n := n) (by simpa [lenFits] using hlt) inv (op := op) (by omega)
  rw [issueLegal, issueCommand_ready hs.1 hs.2]
  refine congrArg _ ?_
  have hcases := checkCommand_cases (beginCommand (assemble n 0 inv op) s)
  rw [beginCommand_cmdl, beginCommand_dp, hl, ho] at hcases
  rcases hcases with ⟨h1, -⟩ | ⟨-, hne, hnot, -⟩ | ⟨-, -, hcap | ⟨h2', hcap⟩, -⟩ | ⟨-, -, -, -, e⟩
  · omega
  · rw [hpow.resolve_left hne] at hnot
    cases hnot
  · omega
  · exact absurd hcap (hpad h2').not_gt
  · exact e

/-- The state in which an accepted PERMUTE starts: at the first turn of BITREV(DMEM, n). -/
def State.Of.permuteStart (n : Nat) (s : State.Of R) : State.Of R :=
  startPerm .pPerm .dmem n (beginCommand (assemble n 0 false 0) s).latched

theorem perform_permute (nm : Num R) {n : Nat} (hs : s.Ready) (h : acceptable s.dp.par 0 n) :
    perform nm (.permute n) s = .next (s.permuteStart n) := by
  obtain ⟨-, hlt, -⟩ := id h
  obtain ⟨hl, -, -, ho⟩ := fields_assemble_command (n := n) (by simpa [lenFits] using hlt) false (op := 0) (by decide)
  have hacc := acceptCommand_permute (s := beginCommand (assemble n 0 false 0) s) (by rw [beginCommand_cmdl, ho])
  rw [beginCommand_cmdl, hl] at hacc
  exact (issueLegal_acceptable false (by decide) hs h).trans (congrArg _ hacc)

theorem permuteStart_atTurn (n : Nat) (hs : s.Ready) : AtTurn (s.permuteStart n) := ⟨rfl, rfl, rfl, hs.2⟩

/-- The sequencer runs an accepted PERMUTE as BITREV(DMEM, n), then the command is complete. -/
theorem run_permute {cf : Setup R} {n : Nat} (hs : s.Ready) (hscript : s.script = []) (hn : 0 < n)
    (h : bitrev cf.num .dmem n (beginCommand (assemble n 0 false 0) s).latched.dp = .ok d) :
    Host.Core.run (machineOf cf) n (s.permuteStart n) = .next (completeCommand { s.permuteStart n with dp := d }) := by
  obtain ⟨j, rfl⟩ : ∃ j, n = j + 1 := ⟨n - 1, by omega⟩
  exact (permuteStart_atTurn (j + 1) hs).run hscript (Nat.zero_add _) h

/-- Settles O19: the command is accepted, the sequencer runs BITREV(DMEM, n), and BITREV has permuted DMEM. -/
theorem permuteCommandReorders : Obligations.PermuteCommandReorders := by
  intro n s hs hscript hacc hw
  obtain ⟨hn, -, hpow, hmax, -⟩ := id hacc
  obtain ⟨k, rfl⟩ := (isPow2_iff n).1 (hpow.resolve_left (by decide))
  rw [Nat.log2_two_pow] at hw ⊢
  have hp : readable (beginCommand (assemble (2 ^ k) 0 false 0) s).latched.dp .dmem := .inl hs.2
  obtain ⟨d, hd⟩ := bitrev_completes numB64 (m := .dmem) hp hmax hw
  have h := bitrev_permuted (m := .dmem) hp hd
  refine ⟨s.permuteStart (2 ^ k), completeCommand { s.permuteStart (2 ^ k) with dp := d }, ?_, ?_, rfl, rfl, rfl, rfl, rfl,
    fun x hx => h.get_revBits hx, h.sameBut⟩
  · rw [exec_eq_perform, perform_permute numB64 hs hacc]
  · rw [run_core_eq]
    exact run_permute hs hscript (by omega) hd

end Sys2Proof.Machine
end

section
/-! TWLD and BFLY (42_pow2_transform.md R143, R147, R150). -/

namespace Sys2Proof.Machine

variable {R : Type} {nm : Num R} {d d' : Datapath R} {m : MemSel} {lo hi : Nat}

/-- A read that an operation's writes do not concern answers as before, whatever it answers. -/
theorem Touches.memRead_eq {m' : MemId} {ks : List Nat} {k : Nat} (h : Touches m' ks d d') (hk : k ∉ ks) :
    memRead nm m' k d' = memRead nm m' k d := by
  obtain ⟨hpar, hpf, hdraws⟩ := h.fixed
  have hsize : d'.size m' = d.size m' := by cases m' <;> simp only [Datapath.size, hpar]
  simp only [memRead, hsize, hpf, hdraws, h.kept k hk]

/-- Only the elements of its memory that an operation writes read otherwise than before. -/
theorem Touches.get_eq {m' : MemId} {ks : List Nat} (h : Touches m' ks d d') {m'' : MemId} {k : Nat}
    (hk : ¬ (m'' = m' ∧ k ∈ ks)) : Mem.get (d'.mem m'') k = Mem.get (d.mem m'') k := by
  by_cases hm : m'' = m'
  · subst hm
    exact h.kept k fun hks => hk ⟨rfl, hks⟩
  · rw [h.other m'' hm]

/-- All that BFLY can answer with a datapath. -/
theorem bfly_ok_iff :
    bfly nm m lo hi d = .ok d' ↔ ∃ h t, memRead nm (memOf m) hi d = .ok h ∧ memRead nm (memOf m) lo d = .ok t ∧
      d' = (d.withRegs (fun r => { r with p := cmul nm d.r.w h, t := t })).setMem (memOf m)
        (Mem.set (Mem.set (d.mem (memOf m)) hi (csub nm t (cmul nm d.r.w h))) lo (cadd nm t (cmul nm d.r.w h))) := by
  constructor
  · intro hb
    have hreads := hb
    simp only [bfly, except_bind_eq_ok] at hreads
    obtain ⟨h, hh, t, ht, -⟩ := hreads
    rw [bfly_of_reads hh ht (memRead_lt_size ht) (memRead_lt_size hh)] at hb
    exact ⟨h, t, hh, ht, (Except.ok.inj hb).symm⟩
  · rintro ⟨h, t, hh, ht, rfl⟩
    exact bfly_of_reads hh ht (memRead_lt_size ht) (memRead_lt_size hh)

/-- R147: what BFLY leaves in the memories. -/
theorem bfly_get {h t : Cplx R} (hb : bfly nm m lo hi d = .ok d') (hh : memRead nm (memOf m) hi d = .ok h)
    (ht : memRead nm (memOf m) lo d = .ok t) (m' : MemId) (k : Nat) :
    Mem.get (d'.mem m') k =
      if m' = memOf m ∧ k = lo then some (cadd nm t (cmul nm d.r.w h))
      else if m' = memOf m ∧ k = hi then some (csub nm t (cmul nm d.r.w h))
      else Mem.get (d.mem m') k := by
  rw [bfly_of_reads hh ht (memRead_lt_size ht) (memRead_lt_size hh)] at hb
  obtain rfl := Except.ok.inj hb
  by_cases hm : m' = memOf m
  · subst hm
    simp only [Datapath.mem_setMem_same, Mem.get_set, true_and]
  · simp [hm, Datapath.mem_setMem_other _ _ hm]

/-- Settles O25: what BFLY answers is known from its two reads, and it stops where one of them stops. -/
theorem butterflyResult : Obligations.ButterflyResult := by
  refine ⟨fun m lo hi s h t _ hh ht => ?_, fun m lo hi s hp hlo hhi hu => ?_⟩
  · have hb := bfly_of_reads hh ht (memRead_lt_size ht) (memRead_lt_size hh)
    exact ⟨_, cmul numB64 s.dp.r.w h, onDatapath_of_ok hb, rfl, bfly_get hb hh ht, by simp, (bfly_touches hb).fixed⟩
  · refine onDatapath_of_error ?_
    cases hg : Mem.get (s.dp.mem (memOf m)) hi with
    | none => exact bfly_of_high_error (memRead_unwritten hhi hp hg)
    | some x =>
      have hl := hu.resolve_right (by simp [hg])
      exact bfly_of_low_error (memRead_written hhi hp hg) (memRead_unwritten hlo hp hl)

/-- Settles O26: TWLD puts the entry of the twiddle table into W. -/
theorem twiddleLoaded : Obligations.TwiddleLoaded := by
  intro s
  rw [← cexp_numB64]
  rfl

/-- BFLY with its twiddle factor given, as the butterflies of one stage are compared (R150). -/
theorem bfly_with_get {w : Cplx R} (hb : bfly nm m lo hi (d.withRegs fun r => { r with w := w }) = .ok d') :
    ∃ h t, memRead nm (memOf m) hi d = .ok h ∧ memRead nm (memOf m) lo d = .ok t ∧ Touches (memOf m) [hi, lo] d d' ∧
      ∀ m' k, Mem.get (d'.mem m') k =
        if m' = memOf m ∧ k = lo then some (cadd nm t (cmul nm w h))
        else if m' = memOf m ∧ k = hi then some (csub nm t (cmul nm w h))
        else Mem.get (d.mem m') k := by
  have hw : Touches (memOf m) [] d (d.withRegs fun r => { r with w := w }) := .of_withRegs _ d rfl
  obtain ⟨h, t, hh, ht, -⟩ := bfly_ok_iff.1 hb
  refine ⟨h, t, ?_, ?_, hw.trans (bfly_touches hb), fun m' k => ?_⟩
  · rwa [hw.memRead_eq (by simp)] at hh
  · rwa [hw.memRead_eq (by simp)] at ht
  · rw [bfly_get hb hh ht, Datapath.withRegs_mem, Datapath.withRegs_r]

/-- Settles O42: neither butterfly reads or writes what the other writes, so each gives the same values in either order. -/
theorem butterfliesCommute : Obligations.ButterfliesCommute := by
  intro R nm m lo hi lo' hi' w w' d d1 d2 e1 e2 _ _ hll hlh hhl hhh hd1 hd2 he1 he2 m' k
  obtain ⟨h, t, hh, ht, td, gd1⟩ := bfly_with_get hd1
  obtain ⟨h', t', hh', ht', -, gd2⟩ := bfly_with_get hd2
  obtain ⟨g', u', hg', hu', te, ge1⟩ := bfly_with_get he1
  obtain ⟨g, u, hg, hu, -, ge2⟩ := bfly_with_get he2
  rw [td.memRead_eq (by simp [Ne.symm hhh, Ne.symm hlh])] at hh'
  rw [td.memRead_eq (by simp [Ne.symm hhl, Ne.symm hll])] at ht'
  rw [te.memRead_eq (by simp [hhh, hhl])] at hg
  rw [te.memRead_eq (by simp [hlh, hll])] at hu
  obtain rfl := Except.ok.inj (hh.symm.trans hg)
  obtain rfl := Except.ok.inj (ht.symm.trans hu)
  obtain rfl := Except.ok.inj (hh'.symm.trans hg')
  obtain rfl := Except.ok.inj (ht'.symm.trans hu')
  rw [gd2, gd1, ge2, ge1]
  by_cases hk : k = lo ∨ k = hi
  · have hk' : k ≠ lo' ∧ k ≠ hi' := by omega
    simp only [hk'.1, hk'.2, and_false, if_false]
  · obtain ⟨hklo, hkhi⟩ := not_or.1 hk
    simp only [hklo, hkhi, and_false, if_false]

end Sys2Proof.Machine
end

section
/-! What the stages make of the elements, as functions (42_pow2_transform.md R143 to R145, R147). -/

namespace Sys2Proof.Machine

variable {R : Type} {nm : Num R} {n h g lo x : Nat} {sg : Sign} {f f' : Nat → Cplx R}

/-- The elements below `n` of a memory hold `f`. -/
def valuesBelow (m : Mem R) (n : Nat) (f : Nat → Cplx R) : Prop := ∀ x, x < n → Mem.get m x = some (f x)

/-- Written elements hold something. -/
theorem valuesBelow_of_written (nm : Num R) {m : Mem R} (hw : writtenBelow m n) :
    valuesBelow m n fun x => (Mem.get m x).getD (czero nm) := by
  intro x hx
  obtain ⟨v, hv⟩ := Option.isSome_iff_exists.1 (hw x hx)
  simp only [hv, Option.getD_some]

theorem valuesBelow.written {m : Mem R} (h : valuesBelow m n f) : writtenBelow m n := fun x hx => by
  rw [h x hx, Option.isSome_some]

/-- The twiddle factor of the butterfly of element `x` in the stage of half-size `h` (R143, R150). -/
def stageTwiddle (nm : Num R) (n : Nat) (sg : Sign) (h x : Nat) : Cplx R := twrom nm n sg (x % h * tableStride n h)

/-- Element `x` after the stage of half-size `h`, when the elements before it were `f` (R144, R147). -/
def stageValue (nm : Num R) (n : Nat) (sg : Sign) (h : Nat) (f : Nat → Cplx R) (x : Nat) : Cplx R :=
  if x % (2 * h) < h then cadd nm (f x) (cmul nm (stageTwiddle nm n sg h x) (f (x + h)))
  else csub nm (f (x - h)) (cmul nm (stageTwiddle nm n sg h x) (f x))

/-- The elements after the first `r` stages. -/
def stagesValue (nm : Num R) (n : Nat) (sg : Sign) : Nat → (Nat → Cplx R) → Nat → Cplx R
  | 0, f => f
  | r + 1, f => stageValue nm n sg (2 ^ r) (stagesValue nm n sg r f)

/-- Whether the butterfly of element `x` has been performed when its stage stands at group `g` and, in it, at LO = `lo`. -/
abbrev pairDone (h g lo x : Nat) : Prop := x % h < g ∨ (x % h = g ∧ x < lo)

/-- Element `x` inside a stage that stands there. -/
def partValue (nm : Num R) (n : Nat) (sg : Sign) (h g lo : Nat) (f : Nat → Cplx R) (x : Nat) : Cplx R :=
  if pairDone h g lo x then stageValue nm n sg h f x else f x

theorem partValue_congr {g' lo' : Nat} (hd : pairDone h g lo x ↔ pairDone h g' lo' x) :
    partValue nm n sg h g lo f x = partValue nm n sg h g' lo' f x := by
  simp only [partValue, hd]

/-- Before the first group nothing has been done. -/
theorem partValue_start (x : Nat) : partValue nm n sg h 0 0 f x = f x := if_neg (by omega)

/-- LO starts at the index of the group. -/
theorem partValue_group_start (x : Nat) : partValue nm n sg h g g f x = partValue nm n sg h g 0 f x :=
  partValue_congr (by have := Nat.mod_le x h; omega)

/-- When LO has left the memory, the group is done. -/
theorem partValue_group_end (hx : x < lo) : partValue nm n sg h g lo f x = partValue nm n sg h (g + 1) 0 f x :=
  partValue_congr (by omega)

/-- After the last group the stage is done. -/
theorem partValue_end (hh : 0 < h) : partValue nm n sg h h 0 f x = stageValue nm n sg h f x :=
  if_pos (.inl (Nat.mod_lt x hh))

/-- R144: the higher element of a pair lies inside the memory. -/
theorem pair_high_lt {q : Nat} (hn : n = 2 * h * q) (hx : x < n) (hlow : x % (2 * h) < h) : x + h < n := by
  have hle := Nat.mul_le_mul_left (2 * h) (Nat.div_lt_of_lt_mul (hn ▸ hx) : x / (2 * h) < q)
  have := Nat.div_add_mod x (2 * h)
  rw [Nat.mul_succ, ← hn] at hle
  omega

section Pair

variable (hg : g < h) (hlo : lo % (2 * h) = g)
include hg hlo

theorem low_mod : lo % h = g := by
  rw [← Nat.mod_mul_left_mod lo 2 h, hlo, Nat.mod_eq_of_lt hg]

theorem high_mod : (lo + h) % (2 * h) = g + h := by
  rw [Nat.add_mod, hlo, Nat.mod_eq_of_lt (show h < 2 * h by omega), Nat.mod_eq_of_lt (by omega)]

/-- R145: the indices of a group from LO on, below the next LO, are LO and HI. -/
theorem pairDone_next (x : Nat) : pairDone h g (lo + 2 * h) x ↔ x = lo ∨ x = lo + h ∨ pairDone h g lo x := by
  have hlm := low_mod hg hlo
  have hlo' := Nat.div_add_mod lo h
  have hx := Nat.div_add_mod x h
  have key : x % h = g → lo ≤ x → x < lo + 2 * h → x = lo ∨ x = lo + h := by
    intro hxg hle hlt
    have h1 : lo / h ≤ x / h := Nat.div_le_div_right hle
    have h2 : x / h < lo / h + 2 := by
      refine Nat.lt_of_mul_lt_mul_left (a := h) ?_
      rw [Nat.mul_add]
      omega
    rcases show x / h = lo / h ∨ x / h = lo / h + 1 by omega with e | e
    · left; rw [e] at hx; omega
    · right; rw [e, Nat.mul_add] at hx; omega
  constructor
  · rintro (hlt | ⟨hxg, hlt⟩)
    · exact .inr (.inr (.inl hlt))
    · by_cases hle : lo ≤ x
      · exact (key hxg hle hlt).imp_right .inl
      · exact .inr (.inr (.inr ⟨hxg, by omega⟩))
  · rintro (rfl | rfl | hlt | ⟨hxg, hlt⟩)
    · exact .inr ⟨hlm, by omega⟩
    · exact .inr ⟨by rw [Nat.add_mod_right, hlm], by omega⟩
    · exact .inl hlt
    · exact .inr ⟨hxg, by omega⟩

/-- What the lower element of a pair becomes. -/
theorem stageValue_low : stageValue nm n sg h f lo =
    cadd nm (f lo) (cmul nm (twrom nm n sg (g * tableStride n h)) (f (lo + h))) := by
  rw [stageValue, if_pos (by omega), stageTwiddle, low_mod hg hlo]

/-- What the higher element of a pair becomes. -/
theorem stageValue_high : stageValue nm n sg h f (lo + h) =
    csub nm (f lo) (cmul nm (twrom nm n sg (g * tableStride n h)) (f (lo + h))) := by
  rw [stageValue, if_neg (by rw [high_mod hg hlo]; omega), stageTwiddle, Nat.add_mod_right, low_mod hg hlo,
    Nat.add_sub_cancel]

/-- Neither element of a pair has changed in the stage before the butterfly of the pair. -/
theorem partValue_low : partValue nm n sg h g lo f lo = f lo := by
  have := low_mod hg hlo
  exact if_neg (by omega)

theorem partValue_high : partValue nm n sg h g lo f (lo + h) = f (lo + h) := by
  have := low_mod hg hlo
  exact if_neg (by rw [pairDone, Nat.add_mod_right]; omega)

/-- R147: one butterfly further. -/
theorem partValue_next (x : Nat) : partValue nm n sg h g (lo + 2 * h) f x =
    if x = lo then cadd nm (f lo) (cmul nm (twrom nm n sg (g * tableStride n h)) (f (lo + h)))
    else if x = lo + h then csub nm (f lo) (cmul nm (twrom nm n sg (g * tableStride n h)) (f (lo + h)))
    else partValue nm n sg h g lo f x := by
  have hd := pairDone_next hg hlo x
  split_ifs with h1 h2
  · rw [partValue, if_pos (hd.2 (.inl h1)), h1, stageValue_low hg hlo]
  · rw [partValue, if_pos (hd.2 (.inr (.inl h2))), h2, stageValue_high hg hlo]
  · exact partValue_congr (hd.trans (by simp only [h1, h2, false_or]))

end Pair

end Sys2Proof.Machine
end

section
/-! The loops of STAGES as counted loops (42_pow2_transform.md R144, R145). -/

namespace Sys2Proof.Machine

variable {R : Type} {nm : Num R} {d d' : Datapath R}

/-- One turn of the pair loop of R145. -/
def pairTurn (nm : Num R) (d : Datapath R) : Except Fault (Datapath R) :=
  bfly nm d.r.msel d.r.lo (d.r.lo + d.r.step) (d.withRegs Regs.startPair) >>= fun e => .ok (e.withRegs Regs.nextPair)

/-- One turn of the stage loop of R145. -/
def stageTurn (nm : Num R) (d : Datapath R) : Except Fault (Datapath R) :=
  repeatE (groupTurn nm) d.r.step (d.withRegs Regs.startStage) >>= fun e => .ok (e.withRegs Regs.nextStage)

theorem pairLoop_of_lt (fuel : Nat) (h : d.r.lo < d.r.nn) :
    pairLoop nm (fuel + 1) d = pairTurn nm d >>= pairLoop nm fuel := by
  simp only [pairLoop, if_pos h, pairTurn, Datapath.withRegs_r, Regs.startPair_msel, Regs.startPair_lo, Regs.startPair_hi]
  cases bfly nm d.r.msel d.r.lo (d.r.lo + d.r.step) (d.withRegs Regs.startPair) <;> rfl

theorem pairLoop_of_not_lt (fuel : Nat) (h : ¬ d.r.lo < d.r.nn) : pairLoop nm fuel d = .ok d := by
  cases fuel with
  | zero => rfl
  | succ fuel => exact if_neg h

theorem stageLoop_of_lt (fuel : Nat) (h : d.r.step < d.r.nn) :
    stageLoop nm (fuel + 1) d = stageTurn nm d >>= stageLoop nm fuel := by
  simp only [stageLoop, if_pos h, stageTurn, Datapath.withRegs_r, Regs.startStage_step]
  cases repeatE (groupTurn nm) d.r.step (d.withRegs Regs.startStage) <;> rfl

theorem stageLoop_of_not_lt (fuel : Nat) (h : ¬ d.r.step < d.r.nn) : stageLoop nm fuel d = .ok d := by
  cases fuel with
  | zero => rfl
  | succ fuel => exact if_neg h

theorem pairTurn_ok_iff : pairTurn nm d = .ok d' ↔
    ∃ e, bfly nm d.r.msel d.r.lo (d.r.lo + d.r.step) (d.withRegs Regs.startPair) = .ok e ∧
      d' = e.withRegs Regs.nextPair := by
  simp only [pairTurn, except_bind_eq_ok, Except.ok.injEq, eq_comm (b := d')]

/-- The start of a group: TWLD, then LO <- G. -/
def groupStart (nm : Num R) (d : Datapath R) : Datapath R :=
  d.withRegs fun r => { r with w := twrom nm r.nn r.ss (tableIndex r), lo := r.g }

theorem groupTurn_eq (nm : Num R) (d : Datapath R) :
    groupTurn nm d = pairLoop nm d.r.nn (groupStart nm d) >>= fun e => .ok (e.withRegs Regs.nextGroup) := rfl

theorem groupTurn_ok_iff : groupTurn nm d = .ok d' ↔
    ∃ e, pairLoop nm d.r.nn (groupStart nm d) = .ok e ∧ d' = e.withRegs Regs.nextGroup := by
  simp only [groupTurn_eq, except_bind_eq_ok, Except.ok.injEq, eq_comm (b := d')]

theorem stageTurn_ok_iff : stageTurn nm d = .ok d' ↔
    ∃ e, repeatE (groupTurn nm) d.r.step (d.withRegs Regs.startStage) = .ok e ∧ d' = e.withRegs Regs.nextStage := by
  simp only [stageTurn, except_bind_eq_ok, Except.ok.injEq, eq_comm (b := d')]

/-- What stays as it is all through a stage: PFAULT, the length and the half-size. -/
abbrev sameStage (d d' : Datapath R) : Prop := d'.pfault = d.pfault ∧ d'.r.nn = d.r.nn ∧ d'.r.step = d.r.step

/-- What a turn of the pair loop does to the registers of the loops. -/
theorem pairTurn_frame (h : pairTurn nm d = .ok d') :
    sameStage d d' ∧ d'.r.g = d.r.g ∧ d'.r.lo = d.r.lo + 2 * d.r.step := by
  obtain ⟨e, he, rfl⟩ := pairTurn_ok_iff.1 h
  have ht := bfly_touches he
  have hr := ht.regs
  rw [sameStage, Datapath.withRegs_r, hr]
  exact ⟨⟨ht.fixed.2.1, rfl, rfl⟩, rfl, rfl⟩

theorem pairLoop_frame {fuel : Nat} (h : pairLoop nm fuel d = .ok d') : sameStage d d' ∧ d'.r.g = d.r.g := by
  induction fuel generalizing d with
  | zero =>
    obtain rfl := Except.ok.inj h
    exact ⟨⟨rfl, rfl, rfl⟩, rfl⟩
  | succ fuel ih =>
    by_cases hlt : d.r.lo < d.r.nn
    · rw [pairLoop_of_lt fuel hlt, except_bind_eq_ok] at h
      obtain ⟨e, hturn, hrest⟩ := h
      obtain ⟨⟨hp, hn, hs⟩, hg, -⟩ := pairTurn_frame hturn
      obtain ⟨⟨hp', hn', hs'⟩, hg'⟩ := ih hrest
      exact ⟨⟨hp'.trans hp, hn'.trans hn, hs'.trans hs⟩, hg'.trans hg⟩
    · rw [pairLoop_of_not_lt _ hlt] at h
      obtain rfl := Except.ok.inj h
      exact ⟨⟨rfl, rfl, rfl⟩, rfl⟩

/-- What a turn of the group loop does to the registers of the loops. -/
theorem groupTurn_frame (h : groupTurn nm d = .ok d') : sameStage d d' ∧ d'.r.g = d.r.g + 1 := by
  obtain ⟨e, he, rfl⟩ := groupTurn_ok_iff.1 h
  obtain ⟨hs, hg⟩ := pairLoop_frame he
  exact ⟨hs, congrArg (· + 1) hg⟩

/-- What a turn of the stage loop does to the registers of the loops. -/
theorem stageTurn_frame (h : stageTurn nm d = .ok d') :
    d'.pfault = d.pfault ∧ d'.r.nn = d.r.nn ∧ d'.r.step = 2 * d.r.step := by
  obtain ⟨e, he, rfl⟩ := stageTurn_ok_iff.1 h
  obtain ⟨hp, hn, hs⟩ := repeatE_keeps (f := groupTurn nm) (sameStage (d.withRegs Regs.startStage))
    (fun a b ⟨hp, hn, hs⟩ hab => by
      obtain ⟨⟨hp', hn', hs'⟩, -⟩ := groupTurn_frame hab
      exact ⟨hp'.trans hp, hn'.trans hn, hs'.trans hs⟩) ⟨rfl, rfl, rfl⟩ he
  exact ⟨hp, hn, congrArg (2 * ·) hs⟩

/-- The pair loop, `while LO < n`, makes as many turns as LO takes to leave the memory. -/
theorem pairLoop_eq_repeatE {fuel j : Nat} (hf : j ≤ fuel) (hlt : ∀ i, i < j → d.r.lo + 2 * d.r.step * i < d.r.nn)
    (hend : d.r.nn ≤ d.r.lo + 2 * d.r.step * j) : pairLoop nm fuel d = repeatE (pairTurn nm) j d := by
  induction j generalizing fuel d with
  | zero => exact pairLoop_of_not_lt fuel (not_lt.2 hend)
  | succ j ih =>
    obtain ⟨fuel, rfl⟩ : ∃ k, fuel = k + 1 := ⟨fuel - 1, by omega⟩
    rw [pairLoop_of_lt fuel (hlt 0 j.succ_pos), repeatE_succ]
    cases hturn : pairTurn nm d with
    | error e => rfl
    | ok e =>
      obtain ⟨⟨-, hn, hs⟩, -, hl⟩ := pairTurn_frame hturn
      refine ih (by omega) (fun i hi => ?_) ?_
      · have := hlt (i + 1) (by omega)
        rw [hl, hn, hs]
        rw [Nat.mul_add] at this
        omega
      · rw [hl, hn, hs]
        rw [Nat.mul_add] at hend
        omega

/-- R144: the pairs of a group lie inside the memory. -/
theorem pair_lt {n h q g c : Nat} (hn : n = 2 * h * q) (hg : g < h) (hc : c < q) : g + 2 * h * c + h < n := by
  have := Nat.mul_le_mul_left (2 * h) (show c + 1 ≤ q by omega)
  rw [Nat.mul_add] at this
  omega

/-- The pair loop of a group makes one turn for each pair of the group. -/
theorem pairLoop_groupStart {q : Nat} (hn : d.r.nn = 2 * d.r.step * q) (hg : d.r.g < d.r.step) :
    pairLoop nm d.r.nn (groupStart nm d) = repeatE (pairTurn nm) q (groupStart nm d) := by
  have hlo : (groupStart nm d).r.lo = d.r.g := rfl
  have hstep : (groupStart nm d).r.step = d.r.step := rfl
  have hnn : (groupStart nm d).r.nn = d.r.nn := rfl
  apply pairLoop_eq_repeatE
  · rw [hn]
    exact Nat.le_mul_of_pos_left q (by omega)
  · intro c hc
    have := pair_lt hn hg hc
    rw [hlo, hstep, hnn]
    omega
  · rw [hlo, hstep, hnn]
    omega

/-- The stage loop, `while STEP < n`, makes as many turns as STEP takes to reach the length. -/
theorem stageLoop_eq_repeatE {fuel j : Nat} (hf : j ≤ fuel) (hlt : ∀ i, i < j → d.r.step * 2 ^ i < d.r.nn)
    (hend : d.r.nn ≤ d.r.step * 2 ^ j) : stageLoop nm fuel d = repeatE (stageTurn nm) j d := by
  induction j generalizing fuel d with
  | zero => exact stageLoop_of_not_lt fuel (by omega)
  | succ j ih =>
    obtain ⟨fuel, rfl⟩ : ∃ k, fuel = k + 1 := ⟨fuel - 1, by omega⟩
    have h0 := hlt 0 j.succ_pos
    rw [pow_zero, mul_one] at h0
    rw [stageLoop_of_lt fuel h0, repeatE_succ]
    cases hturn : stageTurn nm d with
    | error e => rfl
    | ok e =>
      obtain ⟨-, hn, hs⟩ := stageTurn_frame hturn
      have hdouble : ∀ i, e.r.step * 2 ^ i = d.r.step * 2 ^ (i + 1) := fun i => by rw [hs, pow_succ]; ring
      refine ih (by omega) (fun i hi => ?_) ?_
      · rw [hdouble, hn]
        exact hlt (i + 1) (by omega)
      · rw [hdouble, hn]
        exact hend

end Sys2Proof.Machine
end

section
/-! What STAGES and FFT2 leave (42_pow2_transform.md R141, R145): every butterfly is performed once, in its stage. -/

namespace Sys2Proof.Machine

variable {R : Type} {nm : Num R} {m : MemSel} {sg : Sign} {d e e' : Datapath R} {n h q g lo : Nat} {f : Nat → Cplx R}

/-- Inside STAGES(m, n, sg), started at `d`: nothing but M[0..n-1] and the registers of the permuter and of the butterfly
network has changed. -/
structure RoutineFrame (m : MemSel) (n : Nat) (sg : Sign) (d e : Datapath R) : Prop where
  fixed : sameFixed d e
  command : sameCommandRegs d.r e.r
  msel : e.r.msel = m
  nn : e.r.nn = n
  ss : e.r.ss = sg
  outside : sameBut d e (memOf m) n

namespace RoutineFrame

theorem start (m : MemSel) (n : Nat) (sg : Sign) (d : Datapath R) :
    RoutineFrame m n sg d (d.withRegs fun r => (r.enterPow2 m n sg).startStages) where
  fixed := ⟨rfl, rfl, rfl⟩
  command := ⟨rfl, rfl, rfl, rfl, rfl⟩
  msel := rfl
  nn := rfl
  ss := rfl
  outside m' k _ := by rw [Datapath.withRegs_mem]

theorem withRegs {u : Regs R → Regs R} (hf : RoutineFrame m n sg d e) (hu : CountersOnly u) :
    RoutineFrame m n sg d (e.withRegs u) := by
  have hr := hu e.r
  obtain ⟨ho, hn, hs, hl, hk⟩ := hf.command
  exact
    { fixed := hf.fixed
      command := ⟨(congrArg Regs.opc hr).trans ho, (congrArg Regs.n hr).trans hn, (congrArg Regs.s hr).trans hs,
        (congrArg Regs.l hr).trans hl, (congrArg Regs.k hr).trans hk⟩
      msel := (congrArg Regs.msel hr).trans hf.msel
      nn := (congrArg Regs.nn hr).trans hf.nn
      ss := (congrArg Regs.ss hr).trans hf.ss
      outside := fun m' k hk => by rw [Datapath.withRegs_mem]; exact hf.outside m' k hk }

theorem touches {ks : List Nat} (hf : RoutineFrame m n sg d e) (ht : Touches (memOf m) ks e e') (hks : ∀ k ∈ ks, k < n) :
    RoutineFrame m n sg d e' := by
  obtain ⟨hpar, hpf, hdraws⟩ := ht.fixed
  have hr := ht.regs
  exact
    { fixed := ⟨hpar.trans hf.fixed.1, hpf.trans hf.fixed.2.1, hdraws.trans hf.fixed.2.2⟩
      command := by rw [hr]; exact hf.command
      msel := by rw [hr]; exact hf.msel
      nn := by rw [hr]; exact hf.nn
      ss := by rw [hr]; exact hf.ss
      outside := fun m' k hk => (ht.get_eq fun hm => hk ⟨hm.1, hks k hm.2⟩).trans (hf.outside m' k hk) }

theorem trans {e₁ : Datapath R} (h₁ : RoutineFrame m n sg d e₁) (h₂ : RoutineFrame m n sg e₁ e) :
    RoutineFrame m n sg d e where
  fixed := ⟨h₂.fixed.1.trans h₁.fixed.1, h₂.fixed.2.1.trans h₁.fixed.2.1, h₂.fixed.2.2.trans h₁.fixed.2.2⟩
  command := by
    obtain ⟨ho, hn, hs, hl, hk⟩ := h₁.command
    obtain ⟨ho', hn', hs', hl', hk'⟩ := h₂.command
    exact ⟨ho'.trans ho, hn'.trans hn, hs'.trans hs, hl'.trans hl, hk'.trans hk⟩
  msel := h₂.msel
  nn := h₂.nn
  ss := h₂.ss
  outside m' k hk := (h₂.outside m' k hk).trans (h₁.outside m' k hk)

/-- The entry of the routine is part of it. -/
theorem of_enterPow2 (h : RoutineFrame m n sg (d.withRegs (Regs.enterPow2 m n sg)) e) : RoutineFrame m n sg d e where
  fixed := h.fixed
  command := h.command
  msel := h.msel
  nn := h.nn
  ss := h.ss
  outside m' k hk := (h.outside m' k hk).trans (by rw [Datapath.withRegs_mem])

theorem stays_readable (hf : RoutineFrame m n sg d e) {m' : MemId} (hp : readable d m') : readable e m' :=
  hp.imp_left hf.fixed.2.1.trans

theorem size_eq (hf : RoutineFrame m n sg d e) (m' : MemId) : e.size m' = d.size m' := by
  cases m' <;> simp only [Datapath.size, hf.fixed.1]

end RoutineFrame

/-- What BITREV leaves of PFAULT and in the registers that name its memory, its length and the sign. -/
theorem bitrev_frame (h : bitrev nm m n d = .ok e) :
    e.pfault = d.pfault ∧ e.r.msel = m ∧ e.r.nn = n ∧ e.r.ss = d.r.ss := by
  refine repeatE_keeps (f := permTurn nm)
    (fun a => a.pfault = d.pfault ∧ a.r.msel = m ∧ a.r.nn = n ∧ a.r.ss = d.r.ss) (fun a b ⟨hp, ha⟩ hab => ?_)
    (a := d.withRegs (Regs.startPerm m n)) ⟨rfl, rfl, rfl, rfl⟩ h
  obtain ⟨b₁, hb, rfl⟩ := permTurn_ok_iff.1 hab
  obtain ⟨ks, ht⟩ := permExchange_touches hb
  have hr := ht.regs
  rw [Datapath.withRegs_r, hr]
  exact ⟨ht.fixed.2.1.trans hp, ha⟩

theorem Permuted.routineFrame {k i : Nat} (h : Permuted m k i d e) (hs : e.r.ss = sg) : RoutineFrame m (2 ^ k) sg d e where
  fixed := h.fixed
  command := h.command
  msel := h.msel
  nn := h.nn
  ss := hs
  outside := h.sameBut

/-- STAGES(m, n, sg), started at `d`, stands in the stage of half-size `h` at group `g`, and in it at LO = `lo`; the elements at
the start of the stage were `f`. -/
structure InStage (nm : Num R) (m : MemSel) (n : Nat) (sg : Sign) (d : Datapath R) (h : Nat) (f : Nat → Cplx R) (g lo : Nat)
    (e : Datapath R) : Prop where
  frame : RoutineFrame m n sg d e
  step : e.r.step = h
  stride : e.r.stride = tableStride n h
  group : e.r.g = g
  values : valuesBelow (e.mem (memOf m)) n (partValue nm n sg h g lo f)

/-- The same at the head of the pair loop: LO and W are in their registers. -/
structure InGroup (nm : Num R) (m : MemSel) (n : Nat) (sg : Sign) (d : Datapath R) (h : Nat) (f : Nat → Cplx R) (g lo : Nat)
    (e : Datapath R) : Prop extends InStage nm m n sg d h f g lo e where
  low : e.r.lo = lo
  twiddle : e.r.w = twrom nm n sg (g * tableStride n h)

/-- A group starts with TWLD and LO <- G. -/
theorem InStage.groupStart (hi : InStage nm m n sg d h f g 0 e) : InGroup nm m n sg d h f g g (Machine.groupStart nm e) where
  frame := (hi.frame.touches (.of_withRegs (memOf m) e (f := fun r => { r with w := twrom nm r.nn r.ss (tableIndex r) }) rfl)
    (by simp)).withRegs (u := Regs.startGroup) fun _ => rfl
  step := hi.step
  stride := hi.stride
  group := hi.group
  values x hx := by
    rw [Machine.groupStart, Datapath.withRegs_mem, partValue_group_start]
    exact hi.values x hx
  low := hi.group
  twiddle := by
    have hw : (Machine.groupStart nm e).r.w = twrom nm e.r.nn e.r.ss (e.r.g * e.r.stride) := rfl
    rw [hw, hi.frame.nn, hi.frame.ss, hi.group, hi.stride]

section Stage

variable (hp : readable d (memOf m)) (hsize : n ≤ d.size (memOf m))
include hp hsize

/-- A turn of the pair loop performs the butterfly of LO and HI. -/
theorem InGroup.turn (hi : InGroup nm m n sg d h f g lo e) (hg : g < h) (hmod : lo % (2 * h) = g) (hlt : lo + h < n) :
    ∃ e', pairTurn nm e = .ok e' ∧ InGroup nm m n sg d h f g (lo + 2 * h) e' := by
  have read : ∀ k, k < n → memRead nm (memOf m) k (e.withRegs Regs.startPair) = .ok (partValue nm n sg h g lo f k) :=
    fun k hk => memRead_written (by rw [Datapath.withRegs_size, hi.frame.size_eq]; omega) (hi.frame.stays_readable hp)
      (by rw [Datapath.withRegs_mem]; exact hi.values k hk)
  have hh := read (lo + h) hlt
  have hl := read lo (by omega)
  obtain ⟨b, hb⟩ : ∃ b, bfly nm m lo (lo + h) (e.withRegs Regs.startPair) = .ok b :=
    ⟨_, bfly_of_reads hh hl (memRead_lt_size hl) (memRead_lt_size hh)⟩
  have ht := bfly_touches hb
  have hget := bfly_get hb hh hl (memOf m)
  have hr := ht.regs
  rw [partValue_low hg hmod, partValue_high hg hmod, Datapath.withRegs_r, Regs.startPair_w, hi.twiddle] at hget
  refine ⟨_, pairTurn_ok_iff.2 ⟨b, by rw [hi.frame.msel, hi.low, hi.step]; exact hb, rfl⟩, ?_⟩
  exact
    { frame := ((hi.frame.withRegs (u := Regs.startPair) fun _ => rfl).touches ht (by simp; omega)).withRegs fun _ => rfl
      step := by rw [Datapath.withRegs_r, hr]; exact hi.step
      stride := by rw [Datapath.withRegs_r, hr]; exact hi.stride
      group := by rw [Datapath.withRegs_r, hr]; exact hi.group
      values := fun x hx => by
        rw [Datapath.withRegs_mem, hget, partValue_next hg hmod]
        simp only [true_and, Datapath.withRegs_mem, hi.values x hx]
        split_ifs <;> rfl
      low := by
        rw [Datapath.withRegs_r, Regs.nextPair_lo, hr]
        exact congrArg₂ (fun a b => a + 2 * b) hi.low hi.step
      twiddle := (bfly_w hb).trans hi.twiddle }

/-- A turn of the group loop performs the butterflies of the group. -/
theorem InStage.turn (hi : InStage nm m n sg d h f g 0 e) (hn : n = 2 * h * q) (hg : g < h) :
    ∃ e', groupTurn nm e = .ok e' ∧ InStage nm m n sg d h f (g + 1) 0 e' := by
  have hstart := hi.groupStart
  obtain ⟨e₁, hrun, hend⟩ := repeatE_invariant (f := pairTurn nm) (fun c => InGroup nm m n sg d h f g (g + 2 * h * c))
    (fun c a hc ha => by
      rw [Nat.mul_succ, ← Nat.add_assoc]
      exact ha.turn hp hsize hg (by rw [Nat.add_mul_mod_self_left, Nat.mod_eq_of_lt (by omega)]) (pair_lt hn hg hc))
    0 _ (Nat.zero_le q) hstart
  have hloop : pairLoop nm e.r.nn (Machine.groupStart nm e) = repeatE (pairTurn nm) q (Machine.groupStart nm e) :=
    pairLoop_groupStart (by rw [hi.frame.nn, hi.step, hn]) (by rw [hi.group, hi.step]; exact hg)
  refine ⟨_, groupTurn_ok_iff.2 ⟨e₁, hloop.trans hrun, rfl⟩, ?_⟩
  exact
    { frame := hend.frame.withRegs fun _ => rfl
      step := hend.step
      stride := hend.stride
      group := congrArg (· + 1) hend.group
      values := fun x hx => by
        rw [Datapath.withRegs_mem, ← partValue_group_end (lo := g + 2 * h * q) (by omega)]
        exact hend.values x hx }

/-- A turn of the stage loop performs the stage. -/
theorem stageTurn_values (hf : RoutineFrame m n sg d e) (hs : e.r.step = h) (hv : valuesBelow (e.mem (memOf m)) n f)
    (hn : n = 2 * h * q) (hh : 0 < h) :
    ∃ e', stageTurn nm e = .ok e' ∧ RoutineFrame m n sg d e' ∧ e'.r.step = 2 * h ∧
      valuesBelow (e'.mem (memOf m)) n (stageValue nm n sg h f) := by
  have hstart : InStage nm m n sg d h f 0 0 (e.withRegs Regs.startStage) :=
    { frame := hf.withRegs fun _ => rfl
      step := hs
      stride := by rw [← hs, ← hf.nn]; rfl
      group := rfl
      values := fun x hx => by rw [Datapath.withRegs_mem, partValue_start]; exact hv x hx }
  obtain ⟨e₁, hrun, hend⟩ := repeatE_invariant (f := groupTurn nm) (fun g => InStage nm m n sg d h f g 0)
    (fun g a hg ha => ha.turn hp hsize hn hg) 0 _ (Nat.zero_le h) hstart
  refine ⟨_, stageTurn_ok_iff.2 ⟨e₁, by rw [hs]; exact hrun, rfl⟩, hend.frame.withRegs fun _ => rfl,
    congrArg (2 * ·) hend.step, fun x hx => ?_⟩
  rw [Datapath.withRegs_mem, ← partValue_end hh]
  exact hend.values x hx

end Stage

/-- At a power of two every stage has its pairs. -/
theorem two_pow_split {k r : Nat} (hr : r < k) : 2 ^ k = 2 * 2 ^ r * 2 ^ (k - 1 - r) := by
  rw [← pow_succ', ← pow_add]
  congr 1
  omega

theorem stages_eq_repeatE (nm : Num R) (m : MemSel) (k : Nat) (sg : Sign) (d : Datapath R) :
    stages nm m (2 ^ k) sg d =
      repeatE (stageTurn nm) k (d.withRegs fun r => (r.enterPow2 m (2 ^ k) sg).startStages) := by
  refine stageLoop_eq_repeatE (by rw [Nat.log2_two_pow]; omega) (fun i hi => ?_) (by simp)
  simpa using Nat.pow_lt_pow_right Nat.one_lt_two hi

section Routines

variable (nm) {k : Nat} (sg) (hp : readable d (memOf m)) (hsize : 2 ^ k ≤ d.size (memOf m))
include hp hsize

/-- R145: STAGES completes on written elements and performs its stages. -/
theorem stages_values (hv : valuesBelow (d.mem (memOf m)) (2 ^ k) f) :
    ∃ e, stages nm m (2 ^ k) sg d = .ok e ∧ RoutineFrame m (2 ^ k) sg d e ∧
      valuesBelow (e.mem (memOf m)) (2 ^ k) (stagesValue nm (2 ^ k) sg k f) := by
  obtain ⟨e, he, hf, -, hv⟩ := repeatE_invariant (f := stageTurn nm)
    (fun r e => RoutineFrame m (2 ^ k) sg d e ∧ e.r.step = 2 ^ r ∧
      valuesBelow (e.mem (memOf m)) (2 ^ k) (stagesValue nm (2 ^ k) sg r f))
    (fun r a hr ⟨hf, hs, hv⟩ => by
      rw [pow_succ']
      exact stageTurn_values hp hsize hf hs hv (two_pow_split hr) (Nat.two_pow_pos r))
    0 (d.withRegs fun r => (r.enterPow2 m (2 ^ k) sg).startStages) (Nat.zero_le k)
    ⟨.start m (2 ^ k) sg d, rfl, fun x hx => by rw [Datapath.withRegs_mem]; exact hv x hx⟩
  exact ⟨e, (stages_eq_repeatE nm m k sg d).trans he, hf, hv⟩

/-- R141: FFT2 completes on written elements: it performs the stages on the elements in reversed order. -/
theorem fft2_values (hv : valuesBelow (d.mem (memOf m)) (2 ^ k) f) :
    ∃ e, fft2 nm m (2 ^ k) sg d = .ok e ∧ RoutineFrame m (2 ^ k) sg d e ∧
      valuesBelow (e.mem (memOf m)) (2 ^ k) (stagesValue nm (2 ^ k) sg k fun x => f (revBits k x)) := by
  have hmem : (d.withRegs (Regs.enterPow2 m (2 ^ k) sg)).mem (memOf m) = d.mem (memOf m) := Datapath.withRegs_mem _ _ _
  obtain ⟨d₁, hd₁⟩ := bitrev_completes nm (d := d.withRegs (Regs.enterPow2 m (2 ^ k) sg)) hp
    (by rwa [Datapath.withRegs_size]) (fun x hx _ => by rw [hmem]; exact hv.written x hx)
  have hperm := bitrev_permuted (d := d.withRegs (Regs.enterPow2 m (2 ^ k) sg)) hp hd₁
  have hv₁ : valuesBelow (d₁.mem (memOf m)) (2 ^ k) fun x => f (revBits k x) := fun x hx => by
    rw [hperm.get_full hx, hmem]
    exact hv _ (revBits_lt k x)
  obtain ⟨e, he, hf, hv⟩ := stages_values nm sg (hperm.stays_readable hp)
    (by rw [hperm.size_eq, Datapath.withRegs_size]; exact hsize) hv₁
  obtain ⟨-, -, -, hss⟩ := bitrev_frame hd₁
  refine ⟨e, by rw [fft2, hd₁]; exact he, ?_, hv⟩
  exact ((hperm.routineFrame hss).trans hf).of_enterPow2

end Routines

/-- Settles O41: both complete and leave what the stages make of the elements. -/
theorem transformRoutinesComplete : Obligations.TransformRoutinesComplete := by
  intro m k sg s hp hsize hw
  have hv := valuesBelow_of_written numB64 hw
  obtain ⟨e, he, hf, hv₁⟩ := stages_values numB64 sg hp hsize hv
  obtain ⟨e', he', hf', hv₂⟩ := fft2_values numB64 sg hp hsize hv
  exact
    ⟨⟨e, (onPow2_two_pow k _ s).trans (onDatapath_of_ok he), hv₁.written, hf.outside, hf.fixed, hf.command⟩,
      ⟨e', (onPow2_two_pow k _ s).trans (onDatapath_of_ok he'), hv₂.written, hf'.outside, hf'.fixed, hf'.command⟩⟩

end Sys2Proof.Machine
end

section
/-! The stages under NUM_exact (42_pow2_transform.md R151 to R153): decimation in time, and the round trip. -/

namespace Sys2Proof.Machine

variable {sg sg' : Sign} {n a b j : Nat} {x : Nat → ℂ}

/-! ## The powers of the root of unity -/

theorem rootPower_zero (sg : Sign) (n : Nat) : rootPower sg n 0 = 1 := by simp [rootPower]

theorem rootPower_add (sg : Sign) (n a b : Nat) : rootPower sg n (a + b) = rootPower sg n a * rootPower sg n b := by
  rw [rootPower, rootPower, rootPower, ← Complex.exp_add]
  congr 1
  push_cast
  ring

theorem rootPower_mul (sg : Sign) (n a b : Nat) : rootPower sg n (a * b) = rootPower sg n a ^ b := by
  rw [rootPower, rootPower, ← Complex.exp_nat_mul]
  congr 1
  push_cast
  ring

/-- A common factor of the length and the exponent cancels. -/
theorem rootPower_cancel (sg : Sign) {c : Nat} (hc : c ≠ 0) (n a : Nat) :
    rootPower sg (n * c) (a * c) = rootPower sg n a := by
  rw [rootPower, rootPower]
  congr 1
  push_cast
  rw [← mul_assoc, mul_div_mul_right _ _ (Nat.cast_ne_zero.2 hc)]

/-- A whole turn. -/
theorem rootPower_self (sg : Sign) (hn : n ≠ 0) : rootPower sg n n = 1 := by
  rw [← Nat.one_mul n, rootPower_cancel sg hn 1 1, rootPower, Complex.exp_eq_one_iff]
  cases sg
  · exact ⟨-1, by simp [signReal]⟩
  · exact ⟨1, by simp [signReal]⟩

/-- Half a turn. -/
theorem rootPower_half (sg : Sign) (hn : n ≠ 0) : rootPower sg (2 * n) n = -1 := by
  have h := rootPower_cancel sg hn 2 1
  rw [Nat.one_mul] at h
  rw [h, rootPower]
  cases sg
  · rw [← Complex.exp_neg_pi_mul_I]
    congr 1
    push_cast [signReal]
    ring
  · rw [← Complex.exp_pi_mul_I]
    congr 1
    push_cast [signReal]
    ring

/-! ## Decimation in time (R151) -/

/-- The transform is periodic. -/
theorem dft_add (sg : Sign) (hn : n ≠ 0) (x : Nat → ℂ) (j : Nat) : dft sg n x (j + n) = dft sg n x j := by
  refine Finset.sum_congr rfl fun t _ => ?_
  rw [Nat.add_mul, rootPower_add, rootPower_mul sg n n t, rootPower_self sg hn, one_pow, mul_one]

/-- A sum over twice as many places, by even and odd ones. -/
theorem sum_range_two_mul (y : Nat → ℂ) (n : Nat) :
    ∑ t ∈ Finset.range (2 * n), y t = ∑ t ∈ Finset.range n, (y (2 * t) + y (2 * t + 1)) := by
  induction n with
  | zero => rfl
  | succ n ih => rw [Nat.mul_succ, Finset.sum_range_succ, Finset.sum_range_succ, Finset.sum_range_succ, ih, add_assoc]

/-- Y[j] = E[j] + ω^j·O[j]: a transform of even length from those of the elements at even and at odd places. -/
theorem dft_two_mul (sg : Sign) (n : Nat) (x : Nat → ℂ) (j : Nat) :
    dft sg (2 * n) x j =
      dft sg n (fun t => x (2 * t)) j + rootPower sg (2 * n) j * dft sg n (fun t => x (2 * t + 1)) j := by
  have heven : ∀ t, rootPower sg (2 * n) (j * (2 * t)) = rootPower sg n (j * t) := fun t => by
    rw [Nat.mul_left_comm, Nat.mul_comm 2 n, Nat.mul_comm 2 (j * t), rootPower_cancel sg two_ne_zero]
  rw [dft, dft, dft, sum_range_two_mul, Finset.mul_sum, ← Finset.sum_add_distrib]
  refine Finset.sum_congr rfl fun t _ => ?_
  rw [heven, Nat.mul_succ, rootPower_add, heven]
  ring

theorem rootPower_mod (sg : Sign) (hn : n ≠ 0) (a : Nat) : rootPower sg n (a % n) = rootPower sg n a := by
  conv_rhs => rw [← Nat.mod_add_div a n]
  rw [rootPower_add, rootPower_mul, rootPower_self sg hn, one_pow, mul_one]

/-! ## The butterfly in complex numbers (R104 to R108, R143) -/

/-- A complex number as a pair of reals. -/
noncomputable def Cplx.ofC (z : ℂ) : Cplx ℝ := ⟨z.re, z.im⟩

@[simp] theorem Cplx.toC_ofC (z : ℂ) : (Cplx.ofC z).toC = z := rfl

theorem Cplx.ofC_toC (z : Cplx ℝ) : Cplx.ofC z.toC = z := rfl

section Exact

variable {draw : Nat → Nat → Nat → ℝ} {h q k r : Nat} {f : Nat → Cplx ℝ}

theorem toC_cadd (u v : Cplx ℝ) : (cadd (numExact draw) u v).toC = u.toC + v.toC := rfl

theorem toC_csub (u v : Cplx ℝ) : (csub (numExact draw) u v).toC = u.toC - v.toC := rfl

theorem toC_cmul (u v : Cplx ℝ) : (cmul (numExact draw) u v).toC = u.toC * v.toC := rfl

/-- R108: a point of the unit circle. -/
theorem toC_cexp (sg : Sign) (a b : Nat) :
    (cexp (numExact draw) sg a b).toC = Complex.exp ((signReal sg * (Real.pi * a / b) : ℝ) * Complex.I) := by
  apply Complex.ext
  · rw [Complex.exp_ofReal_mul_I_re]
    cases sg <;> simp [cexp, numExact, Cplx.toC, signReal]
  · rw [Complex.exp_ofReal_mul_I_im]
    cases sg <;> simp [cexp, numExact, Cplx.toC, signReal]

/-- R142: an entry of the twiddle table is a power of the root of unity. -/
theorem toC_twrom (sg : Sign) (n a : Nat) : (twrom (numExact draw) (2 * n) sg a).toC = rootPower sg (2 * n) a := by
  rw [twrom, Nat.mul_div_cancel_left n two_pos, toC_cexp, rootPower]
  congr 1
  push_cast
  ring

/-- The twiddle factor of a butterfly in the stage of half-size `h` (R143). -/
theorem toC_stageTwiddle (sg : Sign) (hn : n = 2 * h * q) (hh : h ≠ 0) (hq : q ≠ 0) (a : Nat) :
    (stageTwiddle (numExact draw) n sg h a).toC = rootPower sg (2 * h) (a % h) := by
  have hn' : n = 2 * (h * q) := hn.trans (Nat.mul_assoc _ _ _)
  have hstride : tableStride n h = q := by
    rw [tableStride, hn', Nat.mul_div_cancel_left _ two_pos, Nat.mul_div_cancel_left q (Nat.pos_of_ne_zero hh)]
  rw [stageTwiddle, hstride, hn', toC_twrom, ← hn', hn, rootPower_cancel sg hq]

/-- R151, the step: if block `c` of the elements before a stage holds the transform of `u c`, then after it block `c` holds that
of `v c`, whose even places are those of `u (2c)` and whose odd places are those of `u (2c+1)`. -/
theorem stageValue_dft {u v : Nat → Nat → ℂ} (hn : n = 2 * h * q) (hh : h ≠ 0) (hq : q ≠ 0)
    (heven : ∀ c t, v c (2 * t) = u (2 * c) t) (hodd : ∀ c t, v c (2 * t + 1) = u (2 * c + 1) t)
    (hf : ∀ a, a < n → (f a).toC = dft sg h (u (a / h)) a) (ha : a < n) :
    (stageValue (numExact draw) n sg h f a).toC = dft sg (2 * h) (v (a / (2 * h))) a := by
  have hsplit : dft sg (2 * h) (v (a / (2 * h))) a =
      dft sg h (u (2 * (a / (2 * h)))) a + rootPower sg (2 * h) a * dft sg h (u (2 * (a / (2 * h)) + 1)) a := by
    simp only [dft_two_mul, heven, hodd]
  have hmod : a % h + h * (a / h % 2) = a % (2 * h) := by rw [Nat.mul_comm 2 h, Nat.mod_mul]
  have hdiv : a / h = 2 * (a / (2 * h)) + a / h % 2 := by
    rw [Nat.mul_comm 2 h, ← Nat.div_div_eq_div_mul]
    omega
  have hroot := rootPower_mod sg (mul_ne_zero two_ne_zero hh) a
  have hhigh := pair_high_lt hn ha
  have hlt := Nat.mod_lt a (Nat.pos_of_ne_zero hh)
  have hle := Nat.mod_le a (2 * h)
  rw [hsplit]
  generalize a / (2 * h) = c at *
  rcases Nat.mod_two_eq_zero_or_one (a / h) with hb | hb <;> rw [hb] at hmod hdiv
  · rw [Nat.mul_zero, Nat.add_zero] at hmod
    rw [Nat.add_zero] at hdiv
    rw [stageValue, if_pos (by omega), toC_cadd, toC_cmul, toC_stageTwiddle sg hn hh hq, hf a ha, hf (a + h) (hhigh (by omega)),
      dft_add sg hh, Nat.add_div_right a (Nat.pos_of_ne_zero hh), hdiv, hmod, hroot]
  · rw [Nat.mul_one] at hmod
    obtain ⟨a, rfl⟩ : ∃ b, a = b + h := ⟨a - h, by omega⟩
    rw [stageValue, if_neg (by omega), toC_csub, toC_cmul, toC_stageTwiddle sg hn hh hq, hf _ ha, Nat.add_sub_cancel,
      hf a (by omega), dft_add sg hh, dft_add sg hh (u (2 * c)), dft_add sg hh (u (2 * c + 1)), hdiv, ← hroot, ← hmod,
      rootPower_add, rootPower_half sg hh]
    rw [Nat.add_div_right a (Nat.pos_of_ne_zero hh), Nat.succ_inj] at hdiv
    rw [hdiv]
    ring

/-- What block `c` holds the transform of after `r` stages at length 2^k (R151): every 2^(k-r)-th element, from the one at the
reversal of the number of the block. -/
def blockInput (k r : Nat) (x : Nat → ℂ) (c t : Nat) : ℂ := x (revBits (k - r) c + t * 2 ^ (k - r))

/-- R151. -/
theorem stagesValue_dft (sg : Sign) (hr : r ≤ k) {a : Nat} (ha : a < 2 ^ k) :
    (stagesValue (numExact draw) (2 ^ k) sg r (fun a => f (revBits k a)) a).toC =
      dft sg (2 ^ r) (blockInput k r (fun a => (f a).toC) (a / 2 ^ r)) a := by
  induction r generalizing a with
  | zero => simp [stagesValue, dft, blockInput, rootPower_zero]
  | succ r ih =>
    obtain ⟨b, hb⟩ : ∃ b, k - r = b + 1 := ⟨k - r - 1, by omega⟩
    have hb' : k - (r + 1) = b := by omega
    rw [stagesValue, pow_succ']
    refine stageValue_dft (two_pow_split hr) (Nat.two_pow_pos r).ne' (Nat.two_pow_pos _).ne' (fun c t => ?_) (fun c t => ?_)
      (fun a ha => ih (by omega) ha) ha
    · have hrev : revBits (b + 1) (2 * c) = revBits b c := by simp [revBits]
      rw [blockInput, blockInput, hb, hb', hrev]
      congr 2
      ring
    · have hrev : revBits (b + 1) (2 * c + 1) = 2 ^ b + revBits b c := by
        rw [revBits, Nat.mul_add_mod, Nat.mul_add_div two_pos]
        simp
      rw [blockInput, blockInput, hb, hb', hrev]
      congr 2
      ring

end Exact

/-! ## The transforms -/

/-- The elements of `holds` as values. -/
theorem holds.values {m : Mem ℝ} (h : holds m n x) : valuesBelow m n fun a => Cplx.ofC (x a) := fun a ha => by
  obtain ⟨v, hv, hx⟩ := h a ha
  simp only [hv, ← hx, Cplx.ofC_toC]

/-- Settles O43: FFT2 completes, and after its last stage the one block holds the transform of the elements in their order. -/
theorem fft2ComputesDft : Obligations.Fft2ComputesDft := by
  intro draw m k sg d x hp hsize hx
  obtain ⟨e, he, -, hv⟩ := fft2_values (numExact draw) sg hp hsize hx.values
  refine ⟨e, he, fun j hj => ⟨_, hv j hj, ?_⟩⟩
  have hone : blockInput k k x (j / 2 ^ k) = x := funext fun t => by simp [blockInput, revBits]
  exact (stagesValue_dft (f := fun a => Cplx.ofC (x a)) sg le_rfl hj).trans (by simp only [Cplx.toC_ofC, hone])

/-- The first power is a primitive root of unity. -/
theorem rootPower_isPrimitiveRoot (sg : Sign) (hn : n ≠ 0) : IsPrimitiveRoot (rootPower sg n 1) n := by
  have h := Complex.isPrimitiveRoot_exp n hn
  have hfirst : rootPower sg n 1 = Complex.exp (signReal sg * (2 * Real.pi * Complex.I / n)) := by
    rw [rootPower]
    congr 1
    push_cast
    ring
  rw [hfirst]
  cases sg
  · simpa [signReal, Complex.exp_neg] using h.inv
  · simpa [signReal] using h

/-- The powers of the two directions are each other's inverses. -/
theorem rootPower_mul_opposite (hs : sg ≠ sg') (n a : Nat) : rootPower sg n a * rootPower sg' n a = 1 := by
  have hsum : signReal sg' = -signReal sg := by
    cases sg <;> cases sg' <;> simp_all [signReal]
  rw [rootPower, rootPower, ← Complex.exp_add, hsum, ← Complex.exp_zero]
  congr 1
  push_cast
  ring

/-- The powers of the two directions are orthogonal. -/
theorem sum_rootPower (hs : sg ≠ sg') {t : Nat} (ht : t < n) (hj : j < n) :
    ∑ i ∈ Finset.range n, (rootPower sg n t * rootPower sg' n j) ^ i = if t = j then (n : ℂ) else 0 := by
  have hn : n ≠ 0 := by omega
  split_ifs with htj
  · simp [htj, rootPower_mul_opposite hs]
  · have hne : rootPower sg n t * rootPower sg' n j ≠ 1 := fun h1 => by
      have heq : rootPower sg n 1 ^ t = rootPower sg n 1 ^ j := by
        rw [← rootPower_mul, ← rootPower_mul, Nat.one_mul, Nat.one_mul,
          ← mul_one (rootPower sg n t), ← rootPower_mul_opposite hs n j, mul_left_comm, h1, mul_one]
      exact htj ((rootPower_isPrimitiveRoot sg hn).pow_inj ht hj heq)
    have hpow : (rootPower sg n t * rootPower sg' n j) ^ n = 1 := by
      rw [mul_pow, ← rootPower_mul, ← rootPower_mul, Nat.mul_comm t, Nat.mul_comm j, rootPower_mul, rootPower_mul,
        rootPower_self sg hn, rootPower_self sg' hn, one_pow, one_pow, mul_one]
    rw [geom_sum_eq hne, hpow, sub_self, zero_div]

/-- The transform in one direction, then in the other, is n times the original (R153). -/
theorem dft_dft (hs : sg ≠ sg') (hj : j < n) : dft sg' n (dft sg n x) j = n * x j := by
  calc dft sg' n (dft sg n x) j
      = ∑ i ∈ Finset.range n, ∑ t ∈ Finset.range n, x t * (rootPower sg n t * rootPower sg' n j) ^ i := by
        refine Finset.sum_congr rfl fun i _ => ?_
        rw [dft, Finset.sum_mul]
        refine Finset.sum_congr rfl fun t _ => ?_
        rw [mul_pow, ← rootPower_mul, ← rootPower_mul, Nat.mul_comm i t, mul_assoc]
    _ = ∑ t ∈ Finset.range n, x t * if t = j then (n : ℂ) else 0 := by
        rw [Finset.sum_comm]
        refine Finset.sum_congr rfl fun t ht => ?_
        rw [← Finset.mul_sum, sum_rootPower hs (Finset.mem_range.1 ht) hj]
    _ = n * x j := by simp [hj, mul_comm]

/-- Settles O44: two transforms, and `dft_dft`. -/
theorem fft2RoundTrip : Obligations.Fft2RoundTrip := by
  intro draw m k sg sg' d x hs hp hsize hx
  obtain ⟨d₁, h₁, hf, hv⟩ := fft2_values (numExact draw) sg hp hsize hx.values
  obtain ⟨d₁', h₁', hx₁⟩ := fft2ComputesDft draw m k sg d x hp hsize hx
  obtain rfl := Except.ok.inj (h₁.symm.trans h₁')
  obtain ⟨d₂, h₂, hx₂⟩ := fft2ComputesDft draw m k sg' d₁ _ (hf.stays_readable hp) (by rwa [hf.size_eq]) hx₁
  refine ⟨d₁, d₂, h₁, h₂, fun i hi => ?_⟩
  obtain ⟨v, hv, hvx⟩ := hx₂ i hi
  exact ⟨v, hv, hvx.trans ((dft_dft hs hi).trans (by push_cast; rfl))⟩

end Sys2Proof.Machine
end

section
/-! The transform of an impulse under NUM_b64 (42_pow2_transform.md R154 (a)): every product is a finite twiddle factor times
zero, and every sum is 1 + 0 or 0 + 0. -/

namespace Sys2Proof.Machine

variable {k r x : Nat} {sg : Sign} {f : Nat → Cplx F64}

theorem f64_zero_or_of_isZero {y : F64} (hy : f64IsZero y = true) : y = f64Zero false ∨ y = f64Zero true := by
  simp only [f64IsZero, Bool.and_eq_true, beq_iff_eq] at hy
  obtain ⟨he, hf⟩ := hy
  cases hs : f64Sign y
  · exact .inl (f64_ext (hs.trans (by decide)) (he.trans (by decide)) (hf.trans (by decide)))
  · exact .inr (f64_ext (hs.trans (by decide)) (he.trans (by decide)) (hf.trans (by decide)))

/-- A finite number times zero is a zero. -/
theorem f64IsZero_mul_zero {y : F64} (hy : f64IsFinite y = true) : f64IsZero (f64Mul y 0#64) = true := by
  have hmant : f64Mant 0#64 = 0 := by decide
  have hnan : f64IsNaN 0#64 = false := by decide
  have hinf : f64IsInf 0#64 = false := by decide
  simp only [f64Mul, f64IsNaN_of_isFinite hy, f64IsInf_of_isFinite hy, hnan, hinf, hmant, Nat.mul_zero, f64Round_zero,
    Bool.or_self, Bool.false_eq_true, if_false]
  cases f64Sign y != f64Sign 0#64 <;> decide

theorem f64IsZero_add {y z : F64} (hy : f64IsZero y = true) (hz : f64IsZero z = true) : f64IsZero (f64Add y z) = true := by
  rcases f64_zero_or_of_isZero hy with rfl | rfl <;> rcases f64_zero_or_of_isZero hz with rfl | rfl <;> decide

theorem f64IsZero_sub {y z : F64} (hy : f64IsZero y = true) (hz : f64IsZero z = true) : f64IsZero (f64Sub y z) = true := by
  rcases f64_zero_or_of_isZero hy with rfl | rfl <;> rcases f64_zero_or_of_isZero hz with rfl | rfl <;> decide

/-- An impulse of height 1 that has spread over the indices below `b`. -/
def impulse (b x : Nat) : Cplx F64 := if x < b then ⟨0x3FF0000000000000#64, 0#64⟩ else ⟨0#64, 0#64⟩

theorem impulse_of_le {b : Nat} (hx : b ≤ x) : impulse b x = ⟨0#64, 0#64⟩ := if_neg (by omega)

/-- A zero of either sign, added to 1 or to +0 or subtracted from it, changes no bit. -/
theorem f64_add_sub_zero {y z : F64} (hy : y = 0x3FF0000000000000#64 ∨ y = 0#64) (hz : f64IsZero z = true) :
    f64Add y z = y ∧ f64Sub y z = y := by
  rcases hy with rfl | rfl <;> rcases f64_zero_or_of_isZero hz with rfl | rfl <;> decide +kernel

theorem impulse_add_sub_zero (b x : Nat) {p : Cplx F64} (hre : f64IsZero p.re = true) (him : f64IsZero p.im = true) :
    cadd numB64 (impulse b x) p = impulse b x ∧ csub numB64 (impulse b x) p = impulse b x := by
  have hval : ((impulse b x).re = 0x3FF0000000000000#64 ∨ (impulse b x).re = 0#64) ∧ (impulse b x).im = 0#64 := by
    unfold impulse
    split
    · exact ⟨.inl rfl, rfl⟩
    · exact ⟨.inr rfl, rfl⟩
  obtain ⟨hadd, hsub⟩ := f64_add_sub_zero hval.1 hre
  obtain ⟨hadd', hsub'⟩ := f64_add_sub_zero (.inr hval.2) him
  exact ⟨congrArg₂ Cplx.mk hadd hadd', congrArg₂ Cplx.mk hsub hsub'⟩

/-- A finite number times zero is a zero, in complex numbers. -/
theorem cmul_zero_isZero {w : Cplx F64} (hre : f64IsFinite w.re = true) (him : f64IsFinite w.im = true) :
    f64IsZero (cmul numB64 w ⟨0#64, 0#64⟩).re = true ∧ f64IsZero (cmul numB64 w ⟨0#64, 0#64⟩).im = true :=
  ⟨f64IsZero_sub (f64IsZero_mul_zero hre) (f64IsZero_mul_zero him),
    f64IsZero_add (f64IsZero_mul_zero hre) (f64IsZero_mul_zero him)⟩

/-- The twiddle factor of a butterfly is an entry of the table, and those are finite (log 4). -/
theorem stageTwiddle_isFinite (sg : Sign) (hr : r < k) (x : Nat) :
    f64IsFinite (stageTwiddle numB64 (2 ^ k) sg (2 ^ r) x).re = true ∧
      f64IsFinite (stageTwiddle numB64 (2 ^ k) sg (2 ^ r) x).im = true := by
  have hhalf : 2 ^ k / 2 = 2 ^ r * 2 ^ (k - 1 - r) := by
    rw [two_pow_split hr, Nat.mul_assoc, Nat.mul_div_cancel_left _ two_pos]
  have hargs : twiddleArgs (x % 2 ^ r * tableStride (2 ^ k) (2 ^ r)) (2 ^ k / 2) = true := by
    rw [twiddleArgs_iff, tableStride, hhalf, Nat.mul_div_cancel_left _ (Nat.two_pow_pos r)]
    exact ⟨(isPow2_iff _).2 ⟨r + (k - 1 - r), (pow_add 2 _ _).symm⟩,
      Nat.mul_lt_mul_of_pos_right (Nat.mod_lt x (Nat.two_pow_pos r)) (Nat.two_pow_pos _)⟩
  rw [stageTwiddle, twrom, cexp_numB64]
  refine ⟨f64CosPi_isFinite hargs, ?_⟩
  dsimp only
  split
  · exact f64SinPi_isFinite hargs
  · rw [f64IsFinite_neg]
    exact f64SinPi_isFinite hargs

/-- One stage spreads the impulse to twice as many indices. -/
theorem stageValue_impulse (hr : r < k) (hf : ∀ y, y < 2 ^ k → f y = impulse (2 ^ r) y) (hx : x < 2 ^ k) :
    stageValue numB64 (2 ^ k) sg (2 ^ r) f x = impulse (2 * 2 ^ r) x := by
  obtain ⟨hwre, hwim⟩ := stageTwiddle_isFinite sg hr x
  obtain ⟨hre, him⟩ := cmul_zero_isZero hwre hwim
  have hsplit := two_pow_split hr
  generalize 2 ^ r = h at *
  have hle := Nat.mod_le x (2 * h)
  rw [stageValue]
  split
  case isTrue hlow =>
    have hhigh := pair_high_lt hsplit hx hlow
    have hspread : impulse h x = impulse (2 * h) x := by
      have hiff : x < h ↔ x < 2 * h := ⟨by omega, fun hlt => by rwa [Nat.mod_eq_of_lt hlt] at hlow⟩
      simp only [impulse, hiff]
    rw [hf x hx, hf _ hhigh, impulse_of_le (by omega : h ≤ x + h), (impulse_add_sub_zero h x hre him).1, hspread]
  case isFalse hlow =>
    have hspread : impulse h (x - h) = impulse (2 * h) x := by
      have hiff : x - h < h ↔ x < 2 * h := by omega
      simp only [impulse, hiff]
    rw [hf x hx, hf _ (by omega), impulse_of_le (by omega : h ≤ x), (impulse_add_sub_zero h (x - h) hre him).2, hspread]

theorem stagesValue_impulse (hr : r ≤ k) (hf : ∀ y, y < 2 ^ k → f y = impulse 1 y) :
    ∀ x, x < 2 ^ k → stagesValue numB64 (2 ^ k) sg r f x = impulse (2 ^ r) x := by
  induction r with
  | zero => exact hf
  | succ r ih =>
    intro x hx
    rw [stagesValue, pow_succ']
    exact stageValue_impulse hr (ih (by omega)) hx

/-- Settles O60: BITREV leaves the impulse at index 0, and after the last stage it has spread over all the elements. -/
theorem impulseIsAllOnes : Obligations.ImpulseIsAllOnes := by
  intro m k sg s hp hsize h0 hrest
  have hv : valuesBelow (s.dp.mem (memOf m)) (2 ^ k) (impulse 1) := fun x hx => by
    rcases Nat.eq_zero_or_pos x with rfl | hpos
    · exact h0
    · rw [hrest x hpos hx, impulse_of_le hpos]
  obtain ⟨e, he, -, hv'⟩ := fft2_values numB64 sg hp hsize hv
  refine ⟨e, (onPow2_two_pow k _ s).trans (onDatapath_of_ok he), fun x hx => ?_⟩
  have hrev : ∀ y, y < 2 ^ k → impulse 1 (revBits k y) = impulse 1 y := fun y hy => by
    have hiff : revBits k y < 1 ↔ y < 1 := by
      rw [Nat.lt_one_iff, Nat.lt_one_iff]
      exact ⟨fun h => by rw [← revBits_revBits hy, h, revBits_zero_right], fun h => by rw [h, revBits_zero_right]⟩
    simp only [impulse, hiff]
  rw [hv' x hx, stagesValue_impulse le_rfl hrev x hx]
  exact congrArg some (if_pos hx)

end Sys2Proof.Machine
end

section
/-! The sequencer runs FFT2 micro-operation by micro-operation (10_state.md R27, 42_pow2_transform.md R141, R145, R148), and the
command XFORM_POW2 (R140). -/

namespace Sys2Proof.Machine

variable {R : Type} {nm : Num R} {cf : Setup R} {s t u : State.Of R} {d d' : Datapath R} {i j : Nat}

/-! ## Runs -/

/-- The machine at `cf` comes from `s` to `t` in `j` steps. -/
def Reaches (cf : Setup R) (j : Nat) (s t : State.Of R) : Prop := Host.Core.run (machineOf cf) j s = .next t

theorem Reaches.refl (cf : Setup R) (s : State.Of R) : Reaches cf 0 s s := rfl

theorem Reaches.of_step (h : stepBy (perform cf.num) cf s = .next t) : Reaches cf 1 s t :=
  run_succ_of_next (M := machineOf cf) h 0

theorem Reaches.trans (h : Reaches cf i s t) (h' : Reaches cf j t u) : Reaches cf (i + j) s u := by
  induction i generalizing s with
  | zero =>
    obtain rfl : s = t := Host.Outcome.next.inj h
    rwa [Nat.zero_add]
  | succ i ih =>
    obtain ⟨v, hstep, hrest⟩ := run_succ_next (M := machineOf cf) h
    rw [Nat.add_right_comm]
    exact (run_succ_of_next (M := machineOf cf) hstep (i + j)).trans (ih hrest)

/-! ## The loops of STAGES as runs -/

/-- The state with the sequencer at place `p` of its routine and the datapath `d`. -/
def State.Of.atPlace (s : State.Of R) (p : RoutinePos) (d : Datapath R) : State.Of R := { s with upos := p, dp := d }

/-- The sequencer is busy in a phase whose routine is BITREV or FFT2, and the host has no move left. -/
structure InRoutine (s : State.Of R) : Prop where
  busy : s.busy = true
  routine : s.seq.isRoutine = true
  script : s.script = []

namespace InRoutine

/-- A step inside a routine is its micro-operation and the advance. -/
theorem reaches_advance (hs : InRoutine s) {p : RoutinePos} (hm : routineDp cf.num (s.atPlace p d) = .ok d')
    (hp : d'.pfault = false) : Reaches cf 1 (s.atPlace p d) (advanceRoutine (s.atPlace p d')) := by
  refine .of_step ((stepBy_nil (s := s.atPlace p d) hs.script).trans ?_)
  have hmicro : microDp cf.num (s.atPlace p d) = .ok d' := (microDp_of_routine (s := s.atPlace p d) _ hs.routine).trans hm
  refine (coreStepBy_next_iff (s := s.atPlace p d) hs.busy).2 ⟨d', hmicro, ?_⟩
  have hadv : advancePhase (s.atPlace p d') = advanceRoutine (s.atPlace p d') := advancePhase_of_routine hs.routine
  have hdraw : redraw (advancePhase (s.atPlace p d')) = advancePhase (s.atPlace p d') :=
    redraw_of_not_pfault (by rw [advancePhase_pfault]; exact hp)
  exact hadv.symm.trans hdraw.symm

/-- A BFLY is a turn of the pair loop. -/
theorem reaches_pair (hs : InRoutine s) (hp : d.pfault = false) (h : pairTurn cf.num d = .ok d') :
    Reaches cf 1 (s.atPlace .bfly (d.withRegs Regs.startPair))
      (if d'.r.lo < d'.r.nn then s.atPlace .bfly (d'.withRegs Regs.startPair) else advanceGroup (s.atPlace .bfly d')) := by
  obtain ⟨⟨hpf, -⟩, -⟩ := pairTurn_frame h
  obtain ⟨e, he, rfl⟩ := pairTurn_ok_iff.1 h
  exact hs.reaches_advance (p := .bfly) (d := d.withRegs Regs.startPair) he (hpf.trans hp)

/-- The pairs of a group that are left. -/
theorem reaches_pairs (hs : InRoutine s) (hp : d.pfault = false) (hlt : d.r.lo + 2 * d.r.step * j < d.r.nn)
    (hend : d.r.nn ≤ d.r.lo + 2 * d.r.step * (j + 1)) (h : repeatE (pairTurn cf.num) (j + 1) d = .ok d') :
    Reaches cf (j + 1) (s.atPlace .bfly (d.withRegs Regs.startPair)) (advanceGroup (s.atPlace .bfly d')) := by
  induction j generalizing d with
  | zero =>
    rw [repeatE_succ, except_bind_eq_ok] at h
    obtain ⟨e, hturn, hrest⟩ := h
    obtain rfl := Except.ok.inj hrest
    obtain ⟨⟨-, hn, -⟩, -, hlo⟩ := pairTurn_frame hturn
    have hpair := hs.reaches_pair hp hturn
    rwa [if_neg (by omega)] at hpair
  | succ j ih =>
    rw [repeatE_succ, except_bind_eq_ok] at h
    obtain ⟨e, hturn, hrest⟩ := h
    obtain ⟨⟨hpf, hn, hstep⟩, -, hlo⟩ := pairTurn_frame hturn
    rw [Nat.mul_succ] at hlt hend
    have hpair := hs.reaches_pair hp hturn
    rw [if_pos (by omega)] at hpair
    rw [Nat.add_comm]
    exact hpair.trans (ih (hpf.trans hp) (by rw [hlo, hn, hstep]; omega) (by rw [hlo, hn, hstep]; omega) hrest)

/-- A group: its TWLD and its pairs. -/
theorem reaches_group {q : Nat} (hs : InRoutine s) (hp : d.pfault = false) (hn : d.r.nn = 2 * d.r.step * q)
    (hg : d.r.g < d.r.step) (hlt : d.r.step < d.r.nn) (h : groupTurn cf.num d = .ok d') :
    Reaches cf (1 + q) (s.atPlace .twld d)
      (if d'.r.g < d'.r.step then s.atPlace .twld d' else stageTest (s.atPlace .bfly (d'.withRegs Regs.nextStage))) := by
  obtain ⟨j, rfl⟩ : ∃ j, q = j + 1 := Nat.exists_eq_succ_of_ne_zero (by rintro rfl; omega)
  obtain ⟨e, he, rfl⟩ := groupTurn_ok_iff.1 h
  have hloop := pairLoop_groupStart (nm := cf.num) hn hg
  have htwld : Reaches cf 1 (s.atPlace .twld d) (s.atPlace .bfly ((groupStart cf.num d).withRegs Regs.startPair)) :=
    hs.reaches_advance (p := .twld) (d' := d.withRegs fun r => { r with w := twrom cf.num r.nn r.ss (tableIndex r) }) rfl hp
  have hlast : d.r.g + 2 * d.r.step * j + d.r.step < d.r.nn := pair_lt hn hg j.lt_succ_self
  exact htwld.trans (hs.reaches_pairs (d := groupStart cf.num d) hp (show d.r.g + 2 * d.r.step * j < d.r.nn by omega)
    (show d.r.nn ≤ d.r.g + 2 * d.r.step * (j + 1) by omega) (hloop.symm.trans he))

/-- The groups of a stage that are left. -/
theorem reaches_groups {q : Nat} (hs : InRoutine s) (hp : d.pfault = false) (hn : d.r.nn = 2 * d.r.step * q)
    (hlt : d.r.step < d.r.nn) (hleft : d.r.g + (j + 1) = d.r.step) (h : repeatE (groupTurn cf.num) (j + 1) d = .ok d') :
    Reaches cf ((j + 1) * (1 + q)) (s.atPlace .twld d) (stageTest (s.atPlace .bfly (d'.withRegs Regs.nextStage))) := by
  induction j generalizing d with
  | zero =>
    rw [repeatE_succ, except_bind_eq_ok] at h
    obtain ⟨e, hturn, hrest⟩ := h
    obtain rfl := Except.ok.inj hrest
    obtain ⟨⟨-, -, hstep⟩, hg⟩ := groupTurn_frame hturn
    have hgroup := hs.reaches_group hp hn (by omega) hlt hturn
    rw [if_neg (by omega)] at hgroup
    rwa [Nat.zero_add, Nat.one_mul]
  | succ j ih =>
    rw [repeatE_succ, except_bind_eq_ok] at h
    obtain ⟨e, hturn, hrest⟩ := h
    obtain ⟨⟨hpf, hnn, hstep⟩, hg⟩ := groupTurn_frame hturn
    have hgroup := hs.reaches_group hp hn (by omega) hlt hturn
    rw [if_pos (by omega)] at hgroup
    rw [Nat.succ_mul, Nat.add_comm]
    exact hgroup.trans (ih (hpf.trans hp) (by rw [hnn, hstep]; exact hn) (by omega) (by omega) hrest)

/-- The end of a phase does not depend on the place in its routine. -/
theorem endPhase_atPlace (hs : InRoutine s) (p p' : RoutinePos) (d : Datapath R) :
    endPhase (s.atPlace p d) = endPhase (s.atPlace p' d) := by
  have hseq : ∀ p, (s.atPlace p d).seq = s.seq := fun _ => rfl
  rcases Phase.routine_cases hs.routine with h | h | h | h | h | h <;> simp only [endPhase, hseq, h] <;> rfl

/-- The stages that are left, then the end of the phase (R148). -/
theorem reaches_stages (hs : InRoutine s) (p : RoutinePos) (hp : d.pfault = false) (hpos : 0 < d.r.step)
    (hleft : d.r.nn = d.r.step * 2 ^ j) (h : repeatE (stageTurn cf.num) j d = .ok d') :
    Reaches cf (j * (d.r.nn / 2) + (d.r.nn - d.r.step)) (stageTest (s.atPlace p d)) (endPhase (s.atPlace p d')) := by
  induction j generalizing d p with
  | zero =>
    obtain rfl := Except.ok.inj h
    have hnot : ¬ d.r.step < d.r.nn := by omega
    rw [stageTest_of_not_lt (s := s.atPlace p d) hnot, hleft]
    simpa using Reaches.refl cf _
  | succ j ih =>
    rw [repeatE_succ, except_bind_eq_ok] at h
    obtain ⟨e, hturn, hrest⟩ := h
    obtain ⟨hpf, hnn, hstep⟩ := stageTurn_frame hturn
    obtain ⟨e₁, hgroups, rfl⟩ := stageTurn_ok_iff.1 hturn
    have hn : d.r.nn = 2 * d.r.step * 2 ^ j := by rw [hleft, pow_succ]; ring
    have hlt : d.r.step < d.r.nn := by
      have := Nat.le_mul_of_pos_right (2 * d.r.step) (Nat.two_pow_pos j)
      omega
    obtain ⟨g, hg⟩ : ∃ g, d.r.step = g + 1 := Nat.exists_eq_succ_of_ne_zero hpos.ne'
    have hstage := hs.reaches_groups (d := d.withRegs Regs.startStage) (j := g) hp hn hlt
      ((Nat.zero_add _).trans hg.symm) (by rw [← hg]; exact hgroups)
    have hrest' := ih (d := e₁.withRegs Regs.nextStage) .bfly (hpf.trans hp) (by omega) (by rw [hnn, hstep, hn]) hrest
    rw [endPhase_atPlace hs .bfly p, hnn, hstep] at hrest'
    rw [stageTest_of_lt (s := s.atPlace p d) hlt]
    have hcount : (j + 1) * (d.r.nn / 2) + (d.r.nn - d.r.step) =
        (g + 1) * (1 + 2 ^ j) + (j * (d.r.nn / 2) + (d.r.nn - 2 * d.r.step)) := by
      have hle := Nat.le_mul_of_pos_right d.r.step (Nat.two_pow_pos j)
      rw [Nat.mul_assoc] at hn
      rw [Nat.succ_mul, Nat.mul_add, ← hg]
      omega
    rw [hcount]
    exact hstage.trans hrest'

end InRoutine

/-! ## FFT2 as a run -/

/-- The state in the phase of the stages of the same routine: XFORM_POW2 moves from T_PERM to T_STAGES (R26). -/
def State.Of.stagesPhase (s : State.Of R) : State.Of R := if s.seq = .tPerm then { s with seq := .tStages } else s

theorem stagesPhase_cases (s : State.Of R) :
    (s.seq = .tPerm ∧ s.stagesPhase = { s with seq := .tStages }) ∨ (s.seq ≠ .tPerm ∧ s.stagesPhase = s) := by
  by_cases h : s.seq = .tPerm
  · exact .inl ⟨h, if_pos h⟩
  · exact .inr ⟨h, if_neg h⟩

theorem InRoutine.stagesPhase (hs : InRoutine s) : InRoutine s.stagesPhase := by
  rcases stagesPhase_cases s with ⟨-, e⟩ | ⟨-, e⟩ <;> rw [e]
  · exact ⟨hs.busy, rfl, hs.script⟩
  · exact hs

/-- Either phase of XFORM_POW2 ends in item DONE. -/
theorem endPhase_stagesPhase (s : State.Of R) (p : RoutinePos) (d : Datapath R) :
    endPhase (s.stagesPhase.atPlace p d) = endPhase (s.atPlace p d) := by
  rcases stagesPhase_cases s with ⟨h, e⟩ | ⟨-, e⟩ <;> rw [e]
  simp only [endPhase, State.Of.atPlace, h]
  rfl

/-- After BITREV the stages of FFT2 begin. -/
theorem endPerm_fft2 (hs : s.seq ≠ .pPerm) (d : Datapath R) :
    endPerm { s with dp := d } = stageTest (s.stagesPhase.atPlace s.upos (d.withRegs Regs.startStages)) := by
  rcases stagesPhase_cases s with ⟨h, e⟩ | ⟨h, e⟩ <;> rw [e]
  · simp only [endPerm, h]
    rfl
  · simp only [endPerm]
    rfl

/-- The entry of STAGES writes again what the entry of FFT2 wrote. -/
theorem enterPow2_of_eq {m : MemSel} {n : Nat} {sg : Sign} {r : Regs R} (hm : r.msel = m) (hn : r.nn = n) (hs : r.ss = sg) :
    r.enterPow2 m n sg = r := by
  subst hm hn hs
  rfl

/-- The sequencer runs FFT2 from its first turn of BITREV on, and then the phase has ended (R141, R148). -/
theorem AtTurn.reaches_fft2 {m : MemSel} {k : Nat} {sg : Sign} (hs : AtTurn s) (hscript : s.script = [])
    (hseq : s.seq ≠ .pPerm) (hdp : s.dp = d.withRegs fun r => (r.enterPow2 m (2 ^ k) sg).startPerm m (2 ^ k))
    (h : fft2 cf.num m (2 ^ k) sg d = .ok d') :
    Reaches cf (fft2Steps (2 ^ k)) s (endPhase { s with dp := d' }) := by
  rw [fft2, except_bind_eq_ok] at h
  obtain ⟨d₁, hperm, hstages⟩ := h
  obtain ⟨hpf, hm, hn, hss⟩ := bitrev_frame hperm
  have hp : d.pfault = false := (congrArg Datapath.pfault hdp).symm.trans hs.pfault
  have hturns : Reaches cf (2 ^ k) s (endPerm { s with dp := d₁ }) := by
    obtain ⟨n, hn⟩ : ∃ n, 2 ^ k = n + 1 := Nat.exists_eq_succ_of_ne_zero (Nat.two_pow_pos k).ne'
    rw [hn] at hdp hperm ⊢
    refine hs.run hscript ?_ ?_
    · rw [hdp]; exact Nat.zero_add _
    · rw [hdp]; exact hperm
  have hin : InRoutine s := ⟨hs.busy, hs.routine, hscript⟩
  rw [stages_eq_repeatE, Datapath.withRegs, enterPow2_of_eq (sg := sg) hm hn hss] at hstages
  have hrun := hin.stagesPhase.reaches_stages (d := d₁.withRegs Regs.startStages) s.upos (hpf.trans hp) one_pos
    (hn.trans (Nat.one_mul _).symm) hstages
  have hcount : fft2Steps (2 ^ k) = 2 ^ k + (k * (d₁.r.nn / 2) + (d₁.r.nn - 1)) := by
    rw [fft2Steps, Nat.log2_two_pow, hn, Nat.mul_comm k]
    omega
  rw [endPhase_stagesPhase] at hrun
  rw [endPerm_fft2 hseq] at hturns
  rw [hcount]
  exact hturns.trans hrun

/-! ## The command XFORM_POW2 -/

/-- The state in which an accepted XFORM_POW2 starts: at the first turn of BITREV inside FFT2(DMEM, n, S). -/
def State.Of.pow2Start (n : Nat) (inv : Bool) (s : State.Of R) : State.Of R :=
  startFft .tPerm .dmem n (signOf inv) (beginCommand (assemble n 0 inv 1) s).latched

theorem perform_xformPow2 (nm : Num R) {n : Nat} (inv : Bool) (hs : s.Ready) (h : acceptable s.dp.par 1 n) :
    perform nm (.xformPow2 n inv) s = .next (s.pow2Start n inv) := by
  obtain ⟨-, hlt, -⟩ := id h
  obtain ⟨hl, -, hi, ho⟩ := fields_assemble_command (n := n) (by simpa [lenFits] using hlt) inv (op := 1) (by decide)
  have hacc := acceptCommand_pow2 (s := beginCommand (assemble n 0 inv 1) s) (by rw [beginCommand_cmdl, ho])
  rw [beginCommand_cmdl, hl, hi] at hacc
  exact (issueLegal_acceptable inv (by decide) hs h).trans (congrArg _ hacc)

/-- The command at every NUM: it starts, FFT2 completes on written elements, and the sequencer runs it to item DONE. -/
theorem xformPow2_runs (cf : Setup R) {n : Nat} (inv : Bool) (hs : s.Ready) (hscript : s.script = [])
    (hacc : acceptable s.dp.par 1 n) (hw : writtenBelow s.dp.dmem n) :
    ∃ t u : State.Of R, perform cf.num (.xformPow2 n inv) s = .next t ∧
      Host.Core.run (machineOf cf) (commandSteps 1 n) t = .next u ∧
      u.busy = false ∧ u.done = true ∧ u.err = false ∧ u.ecode = 0#4 ∧ u.seq = .idle ∧
      fft2 cf.num .dmem n (if inv then .pos else .neg) t.dp = .ok u.dp ∧ sameBut s.dp u.dp .dmem n := by
  obtain ⟨-, -, hpow, hmax, -⟩ := id hacc
  obtain ⟨k, rfl⟩ := (isPow2_iff n).1 (hpow.resolve_left (by decide))
  have hw' : writtenBelow ((s.pow2Start (2 ^ k) inv).dp.mem (memOf .dmem)) (2 ^ k) := hw
  have hp : readable (s.pow2Start (2 ^ k) inv).dp (memOf .dmem) := .inl hs.2
  have hsize : 2 ^ k ≤ (s.pow2Start (2 ^ k) inv).dp.size (memOf .dmem) := hmax
  have hv := valuesBelow_of_written cf.num hw'
  obtain ⟨d, hd, hf, -⟩ := fft2_values cf.num (signOf inv) hp hsize hv
  have hstart : AtTurn (s.pow2Start (2 ^ k) inv) := ⟨rfl, rfl, rfl, hs.2⟩
  have hrun : Reaches cf (fft2Steps (2 ^ k)) (s.pow2Start (2 ^ k) inv)
      (completeCommand { s.pow2Start (2 ^ k) inv with dp := d }) :=
    hstart.reaches_fft2 (d := (s.pow2Start (2 ^ k) inv).dp) hscript nofun rfl hd
  exact ⟨_, _, perform_xformPow2 cf.num inv hs hacc, hrun, rfl, rfl, rfl, rfl, rfl, hd, hf.outside⟩

/-- Settles O20: `core` is the machine at NUM_b64. -/
theorem xformPow2CommandRunsFft2 : Obligations.XformPow2CommandRunsFft2 := by
  refine ⟨fun n inv s hs hscript hacc hw => ?_, fun _ cf _ inv _ => xformPow2_runs cf inv⟩
  obtain ⟨t, u, ht, hu, hrest⟩ := xformPow2_runs setupB64 inv hs hscript hacc hw
  exact ⟨t, u, (exec_eq_perform _ s).trans ht, (run_core_eq _ t).trans hu, hrest⟩

end Sys2Proof.Machine
end

section
/-! The micro-operations of the reduction (43_general_transform.md R167 to R178). -/

namespace Sys2Proof.Machine

variable {R : Type} {nm : Num R}

/-! ## The padded length (R167) -/

/-- The doubling does not pass a power of two above `2n` that it starts at or below. -/
theorem doubleUntil_le {fuel n l l' : Nat} (hl : isPow2 l = true) (hl' : isPow2 l' = true) (hn : 2 * n < l') (hle : l ≤ l') :
    doubleUntil fuel n l ≤ l' := by
  induction fuel generalizing l with
  | zero => exact hle
  | succ fuel ih =>
    rw [doubleUntil]
    split
    · have hdvd := two_mul_dvd_of_isPow2_lt hl hl' (by omega)
      exact ih (isPow2_two_mul hl) (Nat.le_of_dvd (by omega) hdvd)
    · exact hle

/-- R167: no power of two above `2n` is smaller. -/
theorem paddedLength_le {n l : Nat} (hl : isPow2 l = true) (hn : 2 * n < l) : paddedLength n ≤ l :=
  doubleUntil_le (by decide) hl hn (isPow2_pos hl)

theorem paddedLength_eq_two_pow (n : Nat) : ∃ k, paddedLength n = 2 ^ k := (isPow2_iff _).1 (paddedLength_isPow2 n)

/-- Settles O27: L(N) is a power of two above 2·N, and the least one. -/
theorem paddedLengthIsLeast : Obligations.PaddedLengthIsLeast := fun s =>
  ⟨paddedLength s.dp.r.n, rfl, paddedLength_isPow2 _, two_mul_lt_paddedLength _, fun _ hl hn => paddedLength_le hl hn⟩

/-! ## The micro-operations of one K (R170 to R178) -/

/-- From `d` to `e` element `k` of memory `m` has become `v` and Z has become `z`, and nothing else has changed. -/
abbrev elemAndZ (m : MemId) (k : Nat) (v z : Cplx R) (d e : Datapath R) : Prop :=
  (∀ m' k', Mem.get (e.mem m') k' = if m' = m ∧ k' = k then some v else Mem.get (d.mem m') k') ∧
    e.r = { d.r with z := z } ∧ sameFixed d e

/-- The end of CMOD, BKERN, PMUL and WBACK: Z is written, then an element. -/
theorem memWrite_elemAndZ {m : MemId} {k : Nat} (v z : Cplx R) {d : Datapath R} (hk : k < d.size m) :
    ∃ e, memWrite m k v (d.withRegs fun r => { r with z := z }) = .ok e ∧ elemAndZ m k v z d e := by
  have h := memWrite_eq (m := m) (d := d.withRegs fun r => { r with z := z }) v (by rwa [Datapath.withRegs_size])
  have hget := memWrite_get h
  simp only [Datapath.withRegs_mem d] at hget
  exact ⟨_, h, hget, by simp, by simp [sameFixed]⟩

theorem writeZ_elemAndZ {m : MemId} (v : Cplx R) {d : Datapath R} (hk : d.r.k < d.size m) :
    ∃ e, writeZ m v d = .ok e ∧ elemAndZ m d.r.k v v d e := memWrite_elemAndZ v v hk

/-- Settles O28: CHIRPGEN is one write. -/
theorem chirpEntryWritten : Obligations.ChirpEntryWritten := by
  intro s hk
  have h := chirpgen_eq numB64 (d := s.dp) hk
  simp only [← cexp_numB64]
  exact ⟨_, onDatapath_of_ok h, memWrite_get h, rfl, rfl, rfl, rfl⟩

/-- Settles O29: a product below N, zero from N on. -/
theorem chirpModulation : Obligations.ChirpModulation := by
  intro s c x v hk hv
  obtain ⟨e, he, hs⟩ := writeZ_elemAndZ (m := .amem) v (d := s.dp) hk
  refine ⟨e, onDatapath_of_ok (Eq.trans ?_ he), hs⟩
  rcases hv with ⟨hlt, hc, hx, rfl⟩ | ⟨hle, rfl⟩
  · exact cmod_of_reads hlt hc hx
  · exact cmod_padding hle

/-- Settles O30: the four ranges of K. -/
theorem kernelBuild : Obligations.KernelBuild := by
  intro s c v hk hv
  obtain ⟨e, he, hs⟩ := writeZ_elemAndZ (m := .bmem) v (d := s.dp) hk
  refine ⟨e, onDatapath_of_ok (Eq.trans ?_ he), hs⟩
  rcases hv with ⟨h0, hc, rfl⟩ | ⟨h0, hn, hc, rfl⟩ | ⟨h0, hn, hl, hc, rfl⟩ | ⟨h0, hn, hl, rfl⟩
  · rw [bkern_of_zero h0, hc, except_bind_ok]
  · rw [bkern_of_lt h0 hn, hc, except_bind_ok]
    rfl
  · rw [bkern_of_reflected h0 hn hl, hc, except_bind_ok]
    rfl
  · exact bkern_of_middle h0 hn hl

/-- Settles O31: the product of two reads. -/
theorem pointwiseProduct : Obligations.PointwiseProduct := by
  intro s a b ha hb
  obtain ⟨e, he, hs⟩ := writeZ_elemAndZ (cmul numB64 a b) (memRead_lt_size ha)
  exact ⟨e, _, onDatapath_of_ok ((pmul_of_reads ha hb).trans he), rfl, hs⟩

/-- Settles O32: the product stands in Z, its quotient by L in DMEM. -/
theorem writeback : Obligations.Writeback := by
  intro s a c hk ha hc
  obtain ⟨e, he, hs⟩ := memWrite_elemAndZ (m := .dmem) (cdivn numB64 (cmul numB64 a c) s.dp.r.l) (cmul numB64 a c) hk
  refine ⟨e, _, onDatapath_of_ok (Eq.trans ?_ he), rfl, hs⟩
  simp only [wback, ha, hc, except_bind_ok]

end Sys2Proof.Machine
end

section
/-! What the phases of the reduction leave, at every NUM (43_general_transform.md R165): each loop over K writes one memory. -/

namespace Sys2Proof.Machine

variable {R : Type} {nm : Num R} {d e : Datapath R} {m : MemId} {f : Nat → Cplx R} {i : Nat}

/-! ## What the phases leave unchanged -/

/-- What no phase after LCALC changes: the capacities, PFAULT and the registers N, S and L. -/
structure SameCommand (d e : Datapath R) : Prop where
  par : e.par = d.par
  pfault : e.pfault = d.pfault
  n : e.r.n = d.r.n
  s : e.r.s = d.r.s
  l : e.r.l = d.r.l

namespace SameCommand

theorem refl (d : Datapath R) : SameCommand d d := ⟨rfl, rfl, rfl, rfl, rfl⟩

theorem trans {d₁ : Datapath R} (h : SameCommand d d₁) (h' : SameCommand d₁ e) : SameCommand d e :=
  ⟨h'.par.trans h.par, h'.pfault.trans h.pfault, h'.n.trans h.n, h'.s.trans h.s, h'.l.trans h.l⟩

theorem size_eq (h : SameCommand d e) (m : MemId) : e.size m = d.size m := by
  cases m <;> simp only [Datapath.size, h.par]

theorem stays_readable (h : SameCommand d e) (hp : readable d m) : readable e m := hp.imp_left h.pfault.trans

/-- A change of other registers. -/
theorem withRegs (u : Regs R → Regs R) (d : Datapath R)
    (hu : ∀ r, (u r).n = r.n ∧ (u r).s = r.s ∧ (u r).l = r.l := by exact fun _ => ⟨rfl, rfl, rfl⟩) :
    SameCommand d (d.withRegs u) :=
  ⟨rfl, rfl, (hu d.r).1, (hu d.r).2.1, (hu d.r).2.2⟩

theorem of_touches {ks : List Nat} (h : Touches m ks d e) : SameCommand d e := by
  have hr := h.regs
  exact ⟨h.fixed.1, h.fixed.2.1, by rw [hr], by rw [hr], by rw [hr]⟩

end SameCommand

/-- Wherever the operation answers, it leaves the command as it is. -/
def KeepsCommand (f : Datapath R → Except Fault (Datapath R)) : Prop := ∀ ⦃d e⦄, f d = .ok e → SameCommand d e

theorem KeepsCommand.repeatE {f : Datapath R → Except Fault (Datapath R)} (hf : KeepsCommand f) (n : Nat) :
    KeepsCommand (repeatE f n) := fun d _ h =>
  repeatE_keeps (SameCommand d) (fun _ _ ha hab => ha.trans (hf hab)) (.refl d) h

theorem permTurn_keepsCommand (nm : Num R) : KeepsCommand (permTurn nm) := fun d e h => by
  obtain ⟨d₁, he, rfl⟩ := permTurn_ok_iff.1 h
  obtain ⟨ks, ht⟩ := permExchange_touches he
  exact (SameCommand.of_touches ht).trans (.withRegs Regs.nextPerm d₁)

theorem pairTurn_keepsCommand (nm : Num R) : KeepsCommand (pairTurn nm) := fun d e h => by
  obtain ⟨d₁, hb, rfl⟩ := pairTurn_ok_iff.1 h
  exact (SameCommand.withRegs Regs.startPair d).trans <| (SameCommand.of_touches (bfly_touches hb)).trans <|
    .withRegs Regs.nextPair d₁

theorem pairLoop_keepsCommand (nm : Num R) (fuel : Nat) : KeepsCommand (pairLoop nm fuel) := by
  induction fuel with
  | zero =>
    intro d e h
    obtain rfl := Except.ok.inj h
    exact .refl d
  | succ fuel ih =>
    intro d e h
    by_cases hlt : d.r.lo < d.r.nn
    · rw [pairLoop_of_lt fuel hlt, except_bind_eq_ok] at h
      obtain ⟨d₁, hturn, hrest⟩ := h
      exact (pairTurn_keepsCommand nm hturn).trans (ih hrest)
    · rw [pairLoop_of_not_lt _ hlt] at h
      obtain rfl := Except.ok.inj h
      exact .refl d

theorem groupTurn_keepsCommand (nm : Num R) : KeepsCommand (groupTurn nm) := fun d e h => by
  obtain ⟨d₁, hpairs, rfl⟩ := groupTurn_ok_iff.1 h
  have hstart : SameCommand d (groupStart nm d) := ⟨rfl, rfl, rfl, rfl, rfl⟩
  exact hstart.trans <| (pairLoop_keepsCommand nm _ hpairs).trans <| .withRegs Regs.nextGroup d₁

theorem stageTurn_keepsCommand (nm : Num R) : KeepsCommand (stageTurn nm) := fun d e h => by
  obtain ⟨d₁, hgroups, rfl⟩ := stageTurn_ok_iff.1 h
  exact (SameCommand.withRegs Regs.startStage d).trans <|
    ((groupTurn_keepsCommand nm).repeatE _ hgroups).trans <| .withRegs Regs.nextStage d₁

theorem fft2_keepsCommand (nm : Num R) (m : MemSel) (k : Nat) (sg : Sign) : KeepsCommand (fft2 nm m (2 ^ k) sg) := by
  intro d e h
  rw [fft2, except_bind_eq_ok] at h
  obtain ⟨d₁, hperm, hstages⟩ := h
  rw [stages_eq_repeatE] at hstages
  exact (SameCommand.withRegs (fun r => (r.enterPow2 m (2 ^ k) sg).startPerm m (2 ^ k)) d).trans <|
    ((permTurn_keepsCommand nm).repeatE _ hperm).trans <|
    (SameCommand.withRegs (fun r => (r.enterPow2 m (2 ^ k) sg).startStages) d₁).trans <|
    (stageTurn_keepsCommand nm).repeatE _ hstages

/-! ## A loop over K -/

/-- A turn of a loop over K. -/
def kTurn (op : Datapath R → Except Fault (Datapath R)) (d : Datapath R) : Except Fault (Datapath R) :=
  op d >>= fun e => .ok (e.withRegs Regs.nextK)

theorem kLoop_keepsCommand {op : Datapath R → Except Fault (Datapath R)} (hop : KeepsCommand op) (count : Nat) :
    KeepsCommand (kLoop op count) := fun d _ h => by
  have hturn : KeepsCommand (kTurn op) := fun d e h => by
    obtain ⟨d₁, hd₁, he⟩ := except_bind_eq_ok.1 h
    obtain rfl := Except.ok.inj he
    exact (hop hd₁).trans (.withRegs Regs.nextK d₁)
  exact (SameCommand.withRegs Regs.startK d).trans (hturn.repeatE count h)

theorem chirpgen_keepsCommand (nm : Num R) : KeepsCommand (chirpgen nm) := fun _ _ h => .of_touches (chirpgen_touches h)

theorem cmod_keepsCommand (nm : Num R) : KeepsCommand (cmod nm) := fun _ _ h => .of_touches (cmod_touches h)

theorem bkern_keepsCommand (nm : Num R) : KeepsCommand (bkern nm) := fun _ _ h => .of_touches (bkern_touches h)

theorem pmul_keepsCommand (nm : Num R) : KeepsCommand (pmul nm) := fun _ _ h => .of_touches (pmul_touches h)

/-- A loop over K that puts `f K` into element K of memory `m`, started at `d`, stands before the turn of K = `i`. -/
structure InLoop (m : MemId) (f : Nat → Cplx R) (d : Datapath R) (i : Nat) (e : Datapath R) : Prop where
  command : SameCommand d e
  index : e.r.k = i
  outside : sameBut d e m i
  values : valuesBelow (e.mem m) i f

namespace InLoop

theorem start (m : MemId) (f : Nat → Cplx R) (d : Datapath R) : InLoop m f d 0 (d.withRegs Regs.startK) where
  command := .withRegs Regs.startK d
  index := rfl
  outside m' k _ := by rw [Datapath.withRegs_mem]
  values k hk := absurd hk k.not_lt_zero

/-- A turn writes the next element. -/
theorem turn (h : InLoop m f d i e) {z : Cplx R} {e' : Datapath R} (hw : elemAndZ m i (f i) z e e') :
    InLoop m f d (i + 1) (e'.withRegs Regs.nextK) := by
  obtain ⟨hget, hr, hpar, hpf, -⟩ := hw
  have hcommand : SameCommand e (e'.withRegs Regs.nextK) :=
    ⟨hpar, hpf, (congrArg Regs.n hr :), (congrArg Regs.s hr :), (congrArg Regs.l hr :)⟩
  exact
    { command := h.command.trans hcommand
      index := by rw [Datapath.withRegs_r, hr]; exact congrArg (· + 1) h.index
      outside := fun m' k hk => by
        rw [Datapath.withRegs_mem, hget, if_neg fun hi => hk ⟨hi.1, by omega⟩]
        exact h.outside m' k fun hi => hk ⟨hi.1, by omega⟩
      values := fun k hk => by
        rw [Datapath.withRegs_mem, hget]
        by_cases hki : k = i
        · rw [if_pos ⟨rfl, hki⟩, hki]
        · rw [if_neg fun hi => hki hi.2, h.values k (by omega)] }

/-- Inside the loop an element that it has not written yet reads as before. -/
theorem read (h : InLoop m f d i e) (nm : Num R) {m' : MemId} {k : Nat} {v : Cplx R} (hk : k < d.size m')
    (hp : readable d m') (hv : Mem.get (d.mem m') k = some v) (hout : ¬ (m' = m ∧ k < i)) :
    memRead nm m' k e = .ok v :=
  memRead_written (by rwa [h.command.size_eq]) (h.command.stays_readable hp) (by rw [h.outside m' k hout, hv])

end InLoop

/-- A loop whose every turn writes its element completes. -/
theorem kLoop_completes {op : Datapath R → Except Fault (Datapath R)} {count : Nat}
    (hop : ∀ i e, i < count → InLoop m f d i e → ∃ e' z, op e = .ok e' ∧ elemAndZ m i (f i) z e e') :
    ∃ e, kLoop op count d = .ok e ∧ InLoop m f d count e :=
  repeatE_invariant (f := kTurn op) (InLoop m f d)
    (fun i e hi he => by
      obtain ⟨e', z, hop', hw⟩ := hop i e hi he
      exact ⟨_, by rw [kTurn, hop', except_bind_ok], he.turn hw⟩)
    0 _ (Nat.zero_le count) (.start m f d)

/-- A loop whose every turn ends in `writeZ` completes. -/
theorem kLoop_writeZ_completes {op : Datapath R → Except Fault (Datapath R)} {count : Nat} (hsize : count ≤ d.size m)
    (hop : ∀ i e, i < count → InLoop m f d i e → op e = writeZ m (f i) e) :
    ∃ e, kLoop op count d = .ok e ∧ InLoop m f d count e :=
  kLoop_completes fun i e hi he => by
    obtain ⟨e', hw, hz⟩ := writeZ_elemAndZ (m := m) (f i) (d := e) (by rw [he.index, he.command.size_eq]; omega)
    rw [he.index] at hz
    exact ⟨e', f i, (hop i e hi he).trans hw, hz⟩

/-! ## The five loops (R170 to R178) -/

/-- What CHIRPGEN leaves in CHTAB[k] (R170). -/
def chirpValue (nm : Num R) (sg : Sign) (n k : Nat) : Cplx R := cexp nm sg (k * k) n

/-- What CMOD leaves in AMEM[k] (R172). -/
def modulatedValue (nm : Num R) (n : Nat) (c x : Nat → Cplx R) (k : Nat) : Cplx R :=
  if k < n then cmul nm (c k) (x k) else czero nm

/-- What BKERN leaves in BMEM[k] (R174). -/
def kernelValue (nm : Num R) (n l : Nat) (c : Nat → Cplx R) (k : Nat) : Cplx R :=
  if k = 0 then c 0 else if k < n then conj nm (c k) else if l - n < k then conj nm (c (l - k)) else czero nm

/-- What WBACK leaves in DMEM[k] (R178). -/
def writebackValue (nm : Num R) (l : Nat) (a c : Nat → Cplx R) (k : Nat) : Cplx R := cdivn nm (cmul nm (a k) (c k)) l

/-- XFORM_GEN of sign `sg` and length `n` runs with PFAULT = 0, `l` stands in L, and both lengths fit (60_exceptions.md R199). -/
structure InGen (sg : Sign) (n l : Nat) (d : Datapath R) : Prop where
  pfault : d.pfault = false
  n_eq : d.r.n = n
  s_eq : d.r.s = sg
  l_eq : d.r.l = l
  n_le : n ≤ d.par.nmax
  l_le : l ≤ d.par.lmax

theorem InGen.of_same {sg : Sign} {n l : Nat} (h : InGen sg n l d) (hs : SameCommand d e) : InGen sg n l e where
  pfault := hs.pfault.trans h.pfault
  n_eq := hs.n.trans h.n_eq
  s_eq := hs.s.trans h.s_eq
  l_eq := hs.l.trans h.l_eq
  n_le := by rw [hs.par]; exact h.n_le
  l_le := by rw [hs.par]; exact h.l_le

section Loops

variable (nm) {sg : Sign} {n l count : Nat} {c x a b : Nat → Cplx R}

theorem chirpgen_loop (h : InGen sg n l d) :
    ∃ e, kLoop (chirpgen nm) n d = .ok e ∧ InLoop .chtab (chirpValue nm sg n) d n e :=
  kLoop_completes fun i e hi he => by
    obtain rfl := he.index
    have hg := h.of_same he.command
    obtain ⟨e', hw, hz⟩ := memWrite_elemAndZ (m := .chtab) (chirpValue nm sg n e.r.k) e.r.z (hi.trans_le hg.n_le)
    refine ⟨e', _, Eq.trans ?_ hw, hz⟩
    rw [chirpgen, hg.s_eq, hg.n_eq]
    rfl

theorem cmod_loop (h : InGen sg n l d) (hc : valuesBelow d.chtab n c) (hx : valuesBelow d.dmem n x) :
    ∃ e, kLoop (cmod nm) l d = .ok e ∧ InLoop .amem (modulatedValue nm n c x) d l e :=
  kLoop_writeZ_completes h.l_le fun i e _ he => by
    obtain rfl := he.index
    have hn := (h.of_same he.command).n_eq
    rw [modulatedValue]
    split_ifs with hk
    · exact cmod_of_reads (by omega) (he.read nm (hk.trans_le h.n_le) (.inr nofun) (hc _ hk) nofun)
        (he.read nm (hk.trans_le h.n_le) (.inl h.pfault) (hx _ hk) nofun)
    · exact cmod_padding (by omega)

theorem bkern_loop (h : InGen sg n l d) (hpos : 0 < n) (hc : valuesBelow d.chtab n c) :
    ∃ e, kLoop (bkern nm) l d = .ok e ∧ InLoop .bmem (kernelValue nm n l c) d l e :=
  kLoop_writeZ_completes h.l_le fun i e hi he => by
    obtain rfl := he.index
    have hn := (h.of_same he.command).n_eq
    have hl := (h.of_same he.command).l_eq
    have chirp : ∀ k, k < n → memRead nm .chtab k e = .ok (c k) := fun k hk =>
      he.read nm (hk.trans_le h.n_le) (.inr nofun) (hc k hk) nofun
    rw [kernelValue]
    split_ifs with h0 hk hr
    · rw [bkern_of_zero h0, chirp 0 hpos, except_bind_ok]
    · rw [bkern_of_lt (by omega) (by omega), chirp _ hk, except_bind_ok]
    · rw [bkern_of_reflected (by omega) (by omega) (by omega), hl, chirp _ (by omega), except_bind_ok]
    · exact bkern_of_middle (by omega) (by omega) (by omega)

theorem pmul_loop (hl : count ≤ d.par.lmax) (ha : valuesBelow d.amem count a) (hb : valuesBelow d.bmem count b) :
    ∃ e, kLoop (pmul nm) count d = .ok e ∧ InLoop .amem (fun k => cmul nm (a k) (b k)) d count e :=
  kLoop_writeZ_completes hl fun i e hi he => by
    obtain rfl := he.index
    exact pmul_of_reads (he.read nm (hi.trans_le hl) (.inr nofun) (ha _ hi) (by simp))
      (he.read nm (hi.trans_le hl) (.inr nofun) (hb _ hi) nofun)

theorem wback_loop (h : InGen sg n l d) (hnl : n ≤ l) (ha : valuesBelow d.amem l a) (hc : valuesBelow d.chtab n c) :
    ∃ e, kLoop (wback nm) n d = .ok e ∧ InLoop .dmem (writebackValue nm l a c) d n e :=
  kLoop_completes fun i e hi he => by
    obtain rfl := he.index
    have hg := h.of_same he.command
    have hk := hi.trans_le hnl
    have hread := he.read nm (m' := .amem) (hk.trans_le h.l_le) (.inr nofun) (ha _ hk) nofun
    have hchirp := he.read nm (m' := .chtab) (hi.trans_le h.n_le) (.inr nofun) (hc _ hi) nofun
    obtain ⟨e', hw, hz⟩ := memWrite_elemAndZ (m := .dmem) (writebackValue nm l a c e.r.k) (cmul nm (a e.r.k) (c e.r.k))
      (hi.trans_le hg.n_le)
    refine ⟨e', _, Eq.trans ?_ hw, hz⟩
    simp only [wback, hread, hchirp, except_bind_ok, hg.l_eq, writebackValue]

end Loops

/-! ## The whole reduction -/

/-- What FFT2 leaves at length 2^k. -/
def fft2Value (nm : Num R) (sg : Sign) (k : Nat) (f : Nat → Cplx R) : Nat → Cplx R :=
  stagesValue nm (2 ^ k) sg k fun x => f (revBits k x)

/-- What steps 5 to 7 leave in AMEM (R165). -/
def convolvedValue (nm : Num R) (k : Nat) (a b : Nat → Cplx R) : Nat → Cplx R :=
  fft2Value nm .pos k fun x => cmul nm (fft2Value nm .neg k a x) (fft2Value nm .neg k b x)

/-- What XFORM_GEN leaves in DMEM, its padded length 2^k. -/
def genValue (nm : Num R) (sg : Sign) (n k : Nat) (x : Nat → Cplx R) : Nat → Cplx R :=
  writebackValue nm (2 ^ k)
    (convolvedValue nm k (modulatedValue nm n (chirpValue nm sg n) x) (kernelValue nm n (2 ^ k) (chirpValue nm sg n)))
    (chirpValue nm sg n)

theorem valuesBelow.congr {m m' : Mem R} {n : Nat} (h : valuesBelow m n f) (hm : ∀ k, Mem.get m' k = Mem.get m k) :
    valuesBelow m' n f := fun k hk => (hm k).trans (h k hk)

/-- Steps 5 to 7 of R165 complete on written work memories. -/
theorem convolution_completes (nm : Num R) {k : Nat} {a b : Nat → Cplx R} (hl : 2 ^ k ≤ d.par.lmax)
    (ha : valuesBelow d.amem (2 ^ k) a) (hb : valuesBelow d.bmem (2 ^ k) b) :
    ∃ d₁ d₂ d₃ d₄, fft2 nm .amem (2 ^ k) .neg d = .ok d₁ ∧ fft2 nm .bmem (2 ^ k) .neg d₁ = .ok d₂ ∧
      kLoop (pmul nm) (2 ^ k) d₂ = .ok d₃ ∧ fft2 nm .amem (2 ^ k) .pos d₃ = .ok d₄ ∧
      valuesBelow d₄.amem (2 ^ k) (convolvedValue nm k a b) ∧
      ∀ m, m ≠ .amem → m ≠ .bmem → ∀ j, Mem.get (d₄.mem m) j = Mem.get (d.mem m) j := by
  obtain ⟨d₁, h₁, f₁, v₁⟩ := fft2_values nm (m := .amem) .neg (d := d) (.inr nofun) hl ha
  have c₁ := fft2_keepsCommand nm .amem k .neg h₁
  obtain ⟨d₂, h₂, f₂, v₂⟩ := fft2_values nm (m := .bmem) .neg (d := d₁) (.inr nofun) (hl.trans_eq (c₁.size_eq .bmem).symm)
    (hb.congr fun j => f₁.outside .bmem j nofun)
  have c₂ := c₁.trans (fft2_keepsCommand nm .bmem k .neg h₂)
  obtain ⟨d₃, h₃, f₃⟩ := pmul_loop nm (d := d₂) (hl.trans_eq (c₂.size_eq .amem).symm)
    (v₁.congr fun j => f₂.outside .amem j nofun) v₂
  have c₃ := c₂.trans f₃.command
  obtain ⟨d₄, h₄, f₄, v₄⟩ := fft2_values nm (m := .amem) .pos (d := d₃) (.inr nofun) (hl.trans_eq (c₃.size_eq .amem).symm)
    f₃.values
  refine ⟨d₁, d₂, d₃, d₄, h₁, h₂, h₃, h₄, v₄, fun m hna hnb j => ?_⟩
  rw [f₄.outside m j fun h => hna h.1, f₃.outside m j fun h => hna h.1, f₂.outside m j fun h => hnb h.1,
    f₁.outside m j fun h => hna h.1]

/-- The command in the registers passed the checks of XFORM_GEN, and PFAULT = 0 (60_exceptions.md R197, R199). -/
structure GenFits (d : Datapath R) : Prop where
  pfault : d.pfault = false
  two_le : 2 ≤ d.r.n
  n_le : d.r.n ≤ d.par.nmax
  l_le : paddedLength d.r.n ≤ d.par.lmax

/-- The datapath as LCALC leaves it. -/
def Datapath.padded (d : Datapath R) : Datapath R := d.withRegs fun r => { r with l := paddedLength r.n }

theorem lcalc_eq (d : Datapath R) : lcalc d = .ok d.padded := rfl

theorem GenFits.inGen (h : GenFits d) : InGen d.r.s d.r.n (paddedLength d.r.n) d.padded :=
  ⟨h.pfault, rfl, rfl, rfl, h.n_le, h.l_le⟩

/-- R165: the reduction completes, and of DMEM only the elements below N change. -/
theorem genFlow_completes (nm : Num R) {k : Nat} {x : Nat → Cplx R} (h : GenFits d) (hk : paddedLength d.r.n = 2 ^ k)
    (hx : valuesBelow d.dmem d.r.n x) :
    ∃ e, genFlow nm d = .ok e ∧ valuesBelow e.dmem d.r.n (genValue nm d.r.s d.r.n k x) ∧
      ∀ j, d.r.n ≤ j → Mem.get e.dmem j = Mem.get d.dmem j := by
  have hlong := two_mul_lt_paddedLength d.r.n
  have hpos := h.two_le
  have g₁ := h.inGen
  rw [hk] at hlong g₁
  obtain ⟨d₂, h₂, f₂⟩ := chirpgen_loop nm g₁
  have g₂ := g₁.of_same f₂.command
  obtain ⟨d₃, h₃, f₃⟩ := cmod_loop nm g₂ f₂.values (x := x) (hx.congr fun j => f₂.outside .dmem j nofun)
  have g₃ := g₂.of_same f₃.command
  obtain ⟨d₄, h₄, f₄⟩ := bkern_loop nm g₃ (by omega) (f₂.values.congr fun j => f₃.outside .chtab j nofun)
  have g₄ := g₃.of_same f₄.command
  obtain ⟨d₅, d₆, d₇, d₈, h₅, h₆, h₇, h₈, hconv, hother⟩ := convolution_completes nm g₄.l_le
    (f₃.values.congr fun j => f₄.outside .amem j nofun) f₄.values
  have g₅ := g₄.of_same (fft2_keepsCommand nm .amem k .neg h₅)
  have g₆ := g₅.of_same (fft2_keepsCommand nm .bmem k .neg h₆)
  have g₇ := g₆.of_same (kLoop_keepsCommand (pmul_keepsCommand nm) _ h₇)
  have g₈ := g₇.of_same (fft2_keepsCommand nm .amem k .pos h₈)
  obtain ⟨e, h₉, f₉⟩ := wback_loop nm g₈ (by omega) hconv (f₂.values.congr fun j =>
    (hother .chtab nofun nofun j).trans ((f₄.outside .chtab j nofun).trans (f₃.outside .chtab j nofun)))
  refine ⟨e, ?_, f₉.values, fun j hj => ?_⟩
  · simp only [genFlow, lcalc_eq, except_bind_ok, g₁.n_eq, h₂, g₂.l_eq, h₃, g₃.l_eq, h₄, g₄.l_eq, h₅, g₅.l_eq, h₆, g₆.l_eq,
      h₇, g₇.l_eq, h₈, g₈.n_eq, h₉]
  · exact (f₉.outside .dmem j fun h => by omega).trans <| (hother .dmem nofun nofun j).trans <|
      (f₄.outside .dmem j nofun).trans <| (f₃.outside .dmem j nofun).trans <| f₂.outside .dmem j nofun

end Sys2Proof.Machine
end

section
/-! The reduction under NUM_exact (43_general_transform.md R181, R182): the convolution theorem, and Bluestein's identity. -/

namespace Sys2Proof.Machine

variable {sg : Sign} {n i j k : Nat} {a b : Nat → ℂ}

/-! ## The convolution theorem (R181) -/

/-- The circular convolution of R181. -/
noncomputable def circularConv (n : Nat) (a b : Nat → ℂ) (j : Nat) : ℂ :=
  ∑ i ∈ Finset.range n, a i * b ((j + n - i) % n)

theorem dft_congr {x y : Nat → ℂ} (h : ∀ t, t < n → x t = y t) (j : Nat) : dft sg n x j = dft sg n y j :=
  Finset.sum_congr rfl fun t ht => by rw [h t (Finset.mem_range.1 ht)]

/-- A sum over all places may start at any of them. -/
theorem sum_range_shift (hi : i < n) (g : Nat → ℂ) :
    ∑ t ∈ Finset.range n, g ((t + n - i) % n) = ∑ t ∈ Finset.range n, g t := by
  have hn : 0 < n := by omega
  refine Finset.sum_nbij' (fun t => (t + n - i) % n) (fun t => (t + i) % n)
    (fun t _ => Finset.mem_range.2 (Nat.mod_lt _ hn)) (fun t _ => Finset.mem_range.2 (Nat.mod_lt _ hn))
    (fun t ht => ?_) (fun t ht => ?_) (fun _ _ => rfl)
  · rw [Nat.mod_add_mod, show t + n - i + i = t + n by omega, Nat.add_mod_right, Nat.mod_eq_of_lt (Finset.mem_range.1 ht)]
  · rw [Nat.add_sub_assoc hi.le, Nat.mod_add_mod, show t + i + (n - i) = t + n by omega, Nat.add_mod_right,
      Nat.mod_eq_of_lt (Finset.mem_range.1 ht)]

/-- A shift of the place turns the power. -/
theorem rootPower_shift (sg : Sign) (hi : i < n) (j t : Nat) :
    rootPower sg n (j * t) = rootPower sg n (j * i) * rootPower sg n (j * ((t + n - i) % n)) := by
  have hn : n ≠ 0 := by omega
  have hturn : rootPower sg n t = rootPower sg n i * rootPower sg n ((t + n - i) % n) := by
    rw [rootPower_mod sg hn, ← rootPower_add, show i + (t + n - i) = t + n by omega, rootPower_add, rootPower_self sg hn,
      mul_one]
  simp only [Nat.mul_comm j, rootPower_mul, hturn, mul_pow]

/-- The transform of a circular convolution is the product of the transforms. -/
theorem dft_circularConv (sg : Sign) (n : Nat) (a b : Nat → ℂ) (j : Nat) :
    dft sg n (circularConv n a b) j = dft sg n a j * dft sg n b j := by
  have hshift : ∀ i, i < n → ∑ t ∈ Finset.range n, b ((t + n - i) % n) * rootPower sg n (j * t) =
      rootPower sg n (j * i) * dft sg n b j := fun i hi => by
    rw [dft, ← sum_range_shift hi fun t => b t * rootPower sg n (j * t), Finset.mul_sum]
    refine Finset.sum_congr rfl fun t _ => ?_
    rw [rootPower_shift sg hi j t]
    ring
  calc dft sg n (circularConv n a b) j
      = ∑ i ∈ Finset.range n, a i * ∑ t ∈ Finset.range n, b ((t + n - i) % n) * rootPower sg n (j * t) := by
        simp only [dft, circularConv, Finset.sum_mul, Finset.mul_sum, mul_assoc]
        exact Finset.sum_comm
    _ = ∑ i ∈ Finset.range n, a i * (rootPower sg n (j * i) * dft sg n b j) :=
        Finset.sum_congr rfl fun i hi => by rw [hshift i (Finset.mem_range.1 hi)]
    _ = dft sg n a j * dft sg n b j := by simp only [dft, Finset.sum_mul, mul_assoc]

section Exact

variable {draw : Nat → Nat → Nat → ℝ} {f g x : Nat → Cplx ℝ}

theorem toC_fft2Value (hj : j < 2 ^ k) :
    (fft2Value (numExact draw) sg k f j).toC = dft sg (2 ^ k) (fun t => (f t).toC) j := by
  have hone : blockInput k k (fun t => (f t).toC) (j / 2 ^ k) = fun t => (f t).toC :=
    funext fun t => by simp [blockInput, revBits]
  exact (stagesValue_dft sg le_rfl hj).trans (by rw [hone])

/-- R181: the transforms of steps 5 and 7 turn the product of step 6 into the convolution, L times. -/
theorem toC_convolvedValue (hj : j < 2 ^ k) :
    (convolvedValue (numExact draw) k f g j).toC =
      2 ^ k * circularConv (2 ^ k) (fun t => (f t).toC) (fun t => (g t).toC) j := by
  have hproduct : ∀ t, t < 2 ^ k →
      (cmul (numExact draw) (fft2Value (numExact draw) .neg k f t) (fft2Value (numExact draw) .neg k g t)).toC =
        dft .neg (2 ^ k) (circularConv (2 ^ k) (fun t => (f t).toC) fun t => (g t).toC) t := fun t ht => by
    rw [toC_cmul, toC_fft2Value ht, toC_fft2Value ht, dft_circularConv]
  rw [convolvedValue, toC_fft2Value hj, dft_congr hproduct, dft_dft (by decide) hj]
  push_cast
  rfl

end Exact

/-- Settles O46: the steps complete, and `toC_convolvedValue`. -/
theorem convolutionOfWorkMemories : Obligations.ConvolutionOfWorkMemories := by
  intro draw k d a b hl ha hb
  obtain ⟨d₁, d₂, d₃, d₄, h₁, h₂, h₃, h₄, hv, -⟩ := convolution_completes (numExact draw) hl ha.values hb.values
  exact ⟨d₁, d₂, d₃, d₄, h₁, h₂, h₃, h₄, fun j hj => ⟨_, hv j hj, toC_convolvedValue hj⟩⟩

/-! ## Bluestein's identity (R182) -/

section Exact

variable {draw : Nat → Nat → Nat → ℝ} {f x : Nat → Cplx ℝ}

theorem toC_conj (z : Cplx ℝ) : (conj (numExact draw) z).toC = starRingEnd ℂ z.toC := rfl

theorem toC_cdivn (z : Cplx ℝ) (l : Nat) : (cdivn (numExact draw) z l).toC = z.toC / l :=
  Complex.ext (Complex.div_natCast_re z.toC l).symm (Complex.div_natCast_im z.toC l).symm

theorem toC_czero : (czero (numExact draw)).toC = 0 := rfl

/-- A chirp factor is a power of the root of unity of twice the length. -/
theorem toC_chirpValue (sg : Sign) (n i : Nat) :
    (chirpValue (numExact draw) sg n i).toC = rootPower sg (n * 2) (i * i) := by
  rw [chirpValue, toC_cexp, rootPower]
  congr 1
  push_cast
  ring

theorem conj_chirpValue_mul (sg : Sign) (n i : Nat) :
    (conj (numExact draw) (chirpValue (numExact draw) sg n i)).toC * (chirpValue (numExact draw) sg n i).toC = 1 := by
  rw [toC_conj, Complex.conj_mul', chirpValue, toC_cexp, Complex.norm_exp_ofReal_mul_I]
  norm_num

/-- The kernel at the distance of two places, read around the corner where it is negative, undoes the chirp at that distance. -/
theorem kernelValue_mul_chirpValue {l : Nat} (hl : 2 * n < l) (hi : i < n) (hj : j < n) :
    (kernelValue (numExact draw) n l (chirpValue (numExact draw) sg n) ((j + l - i) % l)).toC *
      (chirpValue (numExact draw) sg n ((j - i) + (i - j))).toC = 1 := by
  rcases Nat.lt_trichotomy i j with hlt | rfl | hgt
  · have hplace : (j + l - i) % l = j - i := by
      rw [show j + l - i = j - i + l by omega, Nat.add_mod_right, Nat.mod_eq_of_lt (by omega)]
    rw [hplace, kernelValue, if_neg (by omega), if_pos (by omega), show j - i + (i - j) = j - i by omega]
    exact conj_chirpValue_mul sg n _
  · rw [Nat.add_sub_cancel_left, Nat.mod_self, kernelValue, if_pos rfl, Nat.sub_self, toC_chirpValue, rootPower_zero, mul_one]
  · have hplace : (j + l - i) % l = l - (i - j) := by
      rw [show j + l - i = l - (i - j) by omega, Nat.mod_eq_of_lt (by omega)]
    rw [hplace, kernelValue, if_neg (by omega), if_neg (by omega), if_pos (by omega),
      show l - (l - (i - j)) = j - i + (i - j) by omega]
    exact conj_chirpValue_mul sg n _

/-- 2ij = i² + j² − (j−i)², as the powers of the chirp. -/
theorem chirpValue_mul (sg : Sign) (n i j : Nat) :
    (chirpValue (numExact draw) sg n i).toC * (chirpValue (numExact draw) sg n j).toC =
      (chirpValue (numExact draw) sg n ((j - i) + (i - j))).toC * rootPower sg n (j * i) := by
  have hsquare : i * i + j * j = ((j - i) + (i - j)) * ((j - i) + (i - j)) + j * i * 2 := by
    rcases Nat.le_total i j with h | h <;> obtain ⟨c, rfl⟩ := Nat.exists_eq_add_of_le h
    · rw [Nat.add_sub_cancel_left, Nat.sub_eq_zero_of_le h, Nat.add_zero]
      ring
    · rw [Nat.add_sub_cancel_left, Nat.sub_eq_zero_of_le h, Nat.zero_add]
      ring
  rw [toC_chirpValue, toC_chirpValue, toC_chirpValue, ← rootPower_add, hsquare, rootPower_add,
    rootPower_cancel sg two_ne_zero]

/-- What element `i` of the input contributes to the result at `j`. -/
theorem bluestein_term {l : Nat} (hl : 2 * n < l) (hi : i < n) (hj : j < n) :
    (modulatedValue (numExact draw) n (chirpValue (numExact draw) sg n) x i).toC *
        (kernelValue (numExact draw) n l (chirpValue (numExact draw) sg n) ((j + l - i) % l)).toC *
      (chirpValue (numExact draw) sg n j).toC = (x i).toC * rootPower sg n (j * i) := by
  have hkernel := kernelValue_mul_chirpValue (draw := draw) (sg := sg) hl hi hj
  have hchirp := chirpValue_mul (draw := draw) sg n i j
  rw [modulatedValue, if_pos hi, toC_cmul]
  generalize (kernelValue (numExact draw) n l (chirpValue (numExact draw) sg n) ((j + l - i) % l)).toC = b at *
  linear_combination (x i).toC * b * hchirp + (x i).toC * rootPower sg n (j * i) * hkernel

/-- R182: the reduction computes the transform. -/
theorem toC_genValue (hl : 2 * n < 2 ^ k) (hj : j < n) :
    (genValue (numExact draw) sg n k x j).toC = dft sg n (fun t => (x t).toC) j := by
  have hl0 : (2 ^ k : ℂ) ≠ 0 := pow_ne_zero k two_ne_zero
  rw [genValue, writebackValue, toC_cdivn, toC_cmul, toC_convolvedValue (by omega), Nat.cast_pow, Nat.cast_ofNat, mul_assoc,
    mul_div_cancel_left₀ _ hl0, circularConv, Finset.sum_mul, dft]
  refine (Finset.sum_subset (Finset.range_mono (by omega)) fun i _ hi => ?_).symm.trans
    (Finset.sum_congr rfl fun i hi => bluestein_term hl (Finset.mem_range.1 hi) hj)
  rw [modulatedValue, if_neg (by simpa using hi), toC_czero, zero_mul, zero_mul]

end Exact

end Sys2Proof.Machine
end

section
/-! The sequencer runs the reduction phase by phase (10_state.md R27, 43_general_transform.md R165), and the commands XFORM_GEN,
FFT and IFFT. -/

namespace Sys2Proof.Machine

variable {R : Type} {nm : Num R} {cf : Setup R} {s : State.Of R} {d e : Datapath R} {ph : Phase} {i : Instr} {n j : Nat}
  {inv : Bool}

/-- The state in the phase `ph`, at place `u` of its routine, with the datapath `d`. -/
def State.Of.inPhase (s : State.Of R) (ph : Phase) (u : RoutinePos) (d : Datapath R) : State.Of R :=
  { s with seq := ph, upos := u, dp := d }

/-! ## The phases that are loops over K -/

/-- The phases that are loops over K, each with its micro-operation and the register that counts its turns. -/
inductive LoopPhase (nm : Num R) : Phase → (Datapath R → Except Fault (Datapath R)) → (Regs R → Nat) → Prop
  | chirp : LoopPhase nm .gChirp (chirpgen nm) Regs.n
  | cmod : LoopPhase nm .gCmod (cmod nm) Regs.l
  | bkern : LoopPhase nm .gBkern (bkern nm) Regs.l
  | pmul : LoopPhase nm .gPmul (pmul nm) Regs.l
  | wback : LoopPhase nm .gWback (wback nm) Regs.n

section Phases

variable {op : Datapath R → Except Fault (Datapath R)} {count : Regs R → Nat}

/-- What the sequencer does in such a phase. -/
theorem LoopPhase.step (h : LoopPhase nm ph op count) (s : State.Of R) (u : RoutinePos) (d : Datapath R) :
    microDp nm (s.inPhase ph u d) = op d ∧ advancePhase (s.inPhase ph u d) = advanceK (count d.r) (s.inPhase ph u d) := by
  cases h <;> exact ⟨rfl, rfl⟩

/-- Its micro-operation touches the element of its K. -/
theorem LoopPhase.touches (h : LoopPhase nm ph op count) (hop : op d = .ok e) : ∃ m, Touches m [d.r.k] d e := by
  cases h with
  | chirp => exact ⟨_, chirpgen_touches hop⟩
  | cmod => exact ⟨_, cmod_touches hop⟩
  | bkern => exact ⟨_, bkern_touches hop⟩
  | pmul => exact ⟨_, pmul_touches hop⟩
  | wback => exact ⟨_, wback_touches hop⟩

/-- What a turn does to PFAULT, to K and to the number of turns. -/
theorem LoopPhase.turn_frame (h : LoopPhase nm ph op count) (ht : kTurn op d = .ok e) :
    e.pfault = d.pfault ∧ e.r.k = d.r.k + 1 ∧ count e.r = count d.r := by
  obtain ⟨d₁, hop, he⟩ := except_bind_eq_ok.1 ht
  obtain rfl := Except.ok.inj he
  obtain ⟨m, ht⟩ := h.touches hop
  have hr := ht.regs
  refine ⟨ht.fixed.2.1, ?_, ?_⟩ <;> rw [Datapath.withRegs_r, hr]
  · rfl
  · cases h <;> rfl

variable (hb : s.busy = true) (hscript : s.script = [])
include hb hscript

/-- A step with PFAULT = 0 is its micro-operation and the advance. -/
theorem reaches_advancePhase {u : RoutinePos} (hm : microDp cf.num (s.inPhase ph u d) = .ok e) (hp : e.pfault = false) :
    Reaches cf 1 (s.inPhase ph u d) (advancePhase (s.inPhase ph u e)) := by
  refine .of_step ((stepBy_nil (s := s.inPhase ph u d) hscript).trans ?_)
  refine (coreStepBy_next_iff (s := s.inPhase ph u d) hb).2 ⟨e, hm, ?_⟩
  have hdraw : redraw (advancePhase (s.inPhase ph u e)) = advancePhase (s.inPhase ph u e) :=
    redraw_of_not_pfault (by rw [advancePhase_pfault]; exact hp)
  exact hdraw.symm

/-- A step is a turn of the loop; after the last one the phase has ended. -/
theorem LoopPhase.reaches_turn (h : LoopPhase cf.num ph op count) (hp : d.pfault = false) (ht : kTurn op d = .ok e) :
    Reaches cf 1 (s.inPhase ph .single d)
      (if e.r.k < count e.r then s.inPhase ph .single e else endPhase (s.inPhase ph .single e)) := by
  obtain ⟨hpf, -, hcount⟩ := h.turn_frame ht
  obtain ⟨d₁, hop, he⟩ := except_bind_eq_ok.1 ht
  obtain rfl := Except.ok.inj he
  have hstep := reaches_advancePhase hb hscript ((h.step s .single d).1.trans hop) (hpf.trans hp)
  rw [(h.step s .single d₁).2] at hstep
  have hcount' : count (d₁.withRegs Regs.nextK).r = count d₁.r := by cases h <;> rfl
  rw [hcount']
  exact hstep

/-- The turns that are left, then the end of the phase. -/
theorem LoopPhase.reaches_turns (h : LoopPhase cf.num ph op count) (hp : d.pfault = false)
    (hleft : d.r.k + (j + 1) = count d.r) (ht : repeatE (kTurn op) (j + 1) d = .ok e) :
    Reaches cf (j + 1) (s.inPhase ph .single d) (endPhase (s.inPhase ph .single e)) := by
  induction j generalizing d with
  | zero =>
    rw [repeatE_succ, except_bind_eq_ok] at ht
    obtain ⟨d₁, hturn, hrest⟩ := ht
    obtain rfl := Except.ok.inj hrest
    obtain ⟨-, hk, hcount⟩ := h.turn_frame hturn
    have hstep := h.reaches_turn hb hscript hp hturn
    rwa [if_neg (by omega)] at hstep
  | succ j ih =>
    rw [repeatE_succ, except_bind_eq_ok] at ht
    obtain ⟨d₁, hturn, hrest⟩ := ht
    obtain ⟨hpf, hk, hcount⟩ := h.turn_frame hturn
    have hstep := h.reaches_turn hb hscript hp hturn
    rw [if_pos (by omega)] at hstep
    rw [Nat.add_comm]
    exact hstep.trans (ih (hpf.trans hp) (by omega) hrest)

/-- The sequencer runs a loop over K from its entry on. -/
theorem LoopPhase.reaches (h : LoopPhase cf.num ph op count) (hp : d.pfault = false) (hpos : 0 < n) (hn : count d.r = n)
    (ht : kLoop op n d = .ok e) :
    Reaches cf n (s.inPhase ph .single (d.withRegs Regs.startK)) (endPhase (s.inPhase ph .single e)) := by
  obtain ⟨j, rfl⟩ : ∃ j, n = j + 1 := Nat.exists_eq_succ_of_ne_zero hpos.ne'
  have hcount : count (d.withRegs Regs.startK).r = count d.r := by cases h <;> rfl
  exact h.reaches_turns hb hscript (d := d.withRegs Regs.startK) hp (by rw [hcount, hn]; exact Nat.zero_add _) ht

/-- The sequencer runs FFT2 in a phase of its own from its entry on. -/
theorem reaches_fftPhase {m : MemSel} {l k : Nat} {sg : Sign} (hr : ph.isRoutine = true) (hne : ph ≠ .pPerm)
    (hp : d.pfault = false) (hl : d.r.l = l) (hk : l = 2 ^ k) (h : fft2 cf.num m l sg d = .ok e) :
    Reaches cf (fft2Steps l) (s.inPhase ph .perm (d.withRegs fun r => (r.enterPow2 m d.r.l sg).startPerm m d.r.l))
      (endPhase (s.inPhase ph .perm e)) := by
  subst hl
  have hstart : AtTurn (s.inPhase ph .perm (d.withRegs fun r => (r.enterPow2 m d.r.l sg).startPerm m d.r.l)) :=
    ⟨hb, hr, rfl, hp⟩
  rw [hk] at h hstart ⊢
  exact hstart.reaches_fft2 hscript hne rfl h

/-- The sequencer runs the phases of R165 from LCALC on, and the command completes (R185). -/
theorem reaches_genFlow (h : GenFits d) (hflow : genFlow cf.num d = .ok e) :
    Reaches cf (commandSteps 2 d.r.n) (s.inPhase .gLcalc .single d) (completeCommand (s.inPhase .gWback .single e)) := by
  obtain ⟨k, hk⟩ := paddedLength_eq_two_pow d.r.n
  have hpos : 0 < d.r.n := two_pos.trans_le h.two_le
  have hlpos : 0 < paddedLength d.r.n := isPow2_pos (paddedLength_isPow2 _)
  have g₁ := h.inGen
  have hlcalc : Reaches cf 1 (s.inPhase .gLcalc .single d) (s.inPhase .gChirp .single (d.padded.withRegs Regs.startK)) :=
    reaches_advancePhase hb hscript (lcalc_eq d) h.pfault
  simp only [genFlow, lcalc_eq, except_bind_ok, except_bind_eq_ok] at hflow
  obtain ⟨d₂, h₂, d₃, h₃, d₄, h₄, d₅, h₅, d₆, h₆, d₇, h₇, d₈, h₈, h₉⟩ := hflow
  rw [g₁.n_eq] at h₂
  have g₂ := g₁.of_same (kLoop_keepsCommand (chirpgen_keepsCommand _) _ h₂)
  rw [g₂.l_eq] at h₃
  have g₃ := g₂.of_same (kLoop_keepsCommand (cmod_keepsCommand _) _ h₃)
  rw [g₃.l_eq] at h₄
  have g₄ := g₃.of_same (kLoop_keepsCommand (bkern_keepsCommand _) _ h₄)
  rw [g₄.l_eq] at h₅
  have g₅ := g₄.of_same (fft2_keepsCommand _ _ k _ (hk ▸ h₅))
  rw [g₅.l_eq] at h₆
  have g₆ := g₅.of_same (fft2_keepsCommand _ _ k _ (hk ▸ h₆))
  rw [g₆.l_eq] at h₇
  have g₇ := g₆.of_same (kLoop_keepsCommand (pmul_keepsCommand _) _ h₇)
  rw [g₇.l_eq] at h₈
  have g₈ := g₇.of_same (fft2_keepsCommand _ _ k _ (hk ▸ h₈))
  rw [g₈.n_eq] at h₉
  have hsteps : commandSteps 2 d.r.n = 1 + (d.r.n + (paddedLength d.r.n + (paddedLength d.r.n +
      (fft2Steps (paddedLength d.r.n) + (fft2Steps (paddedLength d.r.n) + (paddedLength d.r.n +
        (fft2Steps (paddedLength d.r.n) + d.r.n))))))) := by
    rw [commandSteps, if_neg (by decide), if_neg (by decide)]
    omega
  rw [hsteps]
  exact hlcalc.trans <|
    (LoopPhase.chirp.reaches hb hscript g₁.pfault hpos g₁.n_eq h₂).trans <|
    (LoopPhase.cmod.reaches hb hscript g₂.pfault hlpos g₂.l_eq h₃).trans <|
    (LoopPhase.bkern.reaches hb hscript g₃.pfault hlpos g₃.l_eq h₄).trans <|
    (reaches_fftPhase (ph := .gFfta) hb hscript rfl nofun g₄.pfault g₄.l_eq hk h₅).trans <|
    (reaches_fftPhase (ph := .gFftb) hb hscript rfl nofun g₅.pfault g₅.l_eq hk h₆).trans <|
    (LoopPhase.pmul.reaches hb hscript g₆.pfault hlpos g₆.l_eq h₇).trans <|
    (reaches_fftPhase (ph := .gIffta) hb hscript rfl nofun g₇.pfault g₇.l_eq hk h₈).trans <|
    LoopPhase.wback.reaches hb hscript g₈.pfault hpos g₈.n_eq h₉

end Phases

/-! ## The commands XFORM_GEN, FFT and IFFT -/

/-- FFT and IFFT are other spellings of XFORM_GEN (30_encoding.md R83). -/
theorem perform_gen (nm : Num R) (h : commandArgs i = some (2, inv, n)) (s : State.Of R) :
    perform nm i s = issueLegal (assemble n 0 inv 2) s := by
  cases i with
  | xformGen n' inv' =>
    obtain ⟨rfl, rfl⟩ : inv' = inv ∧ n' = n := by simpa [commandArgs] using h
    rfl
  | fft n' =>
    obtain ⟨rfl, rfl⟩ : false = inv ∧ n' = n := by simpa [commandArgs] using h
    rfl
  | ifft n' =>
    obtain ⟨rfl, rfl⟩ : true = inv ∧ n' = n := by simpa [commandArgs] using h
    rfl
  | _ => simp [commandArgs] at h

/-- The state in which an accepted XFORM_GEN starts: at LCALC. -/
def State.Of.genStart (n : Nat) (inv : Bool) (s : State.Of R) : State.Of R :=
  { (beginCommand (assemble n 0 inv 2) s).latched with seq := .gLcalc, upos := .single }

theorem issueLegal_gen (hs : s.Ready) (h : acceptable s.dp.par 2 n) :
    issueLegal (assemble n 0 inv 2) s = .next (s.genStart n inv) ∧
      (s.genStart n inv).dp.r.n = n ∧ (s.genStart n inv).dp.r.s = signOf inv ∧ GenFits (s.genStart n inv).dp := by
  obtain ⟨h2, hlt, -, hmax, hpad⟩ := id h
  obtain ⟨hl, -, hi, ho⟩ := fields_assemble_command (n := n) (by simpa [lenFits] using hlt) inv (op := 2) (by decide)
  have hacc := acceptCommand_gen (s := beginCommand (assemble n 0 inv 2) s) (by rw [beginCommand_cmdl, ho]; decide)
    (by rw [beginCommand_cmdl, ho]; decide)
  have hn : (s.genStart n inv).dp.r.n = n := hl
  refine ⟨(issueLegal_acceptable inv (by decide) hs h).trans (congrArg _ hacc), hn, congrArg signOf hi, ?_⟩
  exact ⟨hs.2, by rwa [hn], by rwa [hn], by rw [hn]; exact hpad rfl⟩

/-- The command at every NUM: it starts, the reduction completes on written elements, and the sequencer runs it to item DONE. -/
theorem gen_runs (cf : Setup R) {k : Nat} {x : Nat → Cplx R} (hi : commandArgs i = some (2, inv, n)) (hs : s.Ready)
    (hscript : s.script = []) (hacc : acceptable s.dp.par 2 n) (hk : paddedLength n = 2 ^ k)
    (hx : valuesBelow s.dp.dmem n x) :
    ∃ t u : State.Of R, valuesBelow u.dp.dmem n (genValue cf.num (signOf inv) n k x) ∧
      perform cf.num i s = .next t ∧ Host.Core.run (machineOf cf) (commandSteps 2 n) t = .next u ∧
      u.busy = false ∧ u.done = true ∧ u.err = false ∧ u.ecode = 0#4 ∧ u.seq = .idle ∧
      genFlow cf.num t.dp = .ok u.dp ∧ ∀ j, n ≤ j → Mem.get u.dp.dmem j = Mem.get s.dp.dmem j := by
  obtain ⟨hstart, hn, hsg, hfits⟩ := issueLegal_gen (inv := inv) hs hacc
  obtain ⟨e, he, hv, hother⟩ := genFlow_completes cf.num hfits (k := k) (x := x) (by rwa [hn]) (by rw [hn]; exact hx)
  have hrun := reaches_genFlow (cf := cf) (s := s.genStart n inv) rfl hscript hfits he
  rw [hn] at hv hother hrun
  rw [hsg] at hv
  exact ⟨_, _, hv, (perform_gen cf.num hi s).trans hstart, hrun, rfl, rfl, rfl, rfl, rfl, he, hother⟩

/-- Settles O21: `core` is the machine at NUM_b64. -/
theorem xformGenCommandRunsReduction : Obligations.XformGenCommandRunsReduction := by
  refine ⟨fun i n inv s hi hs hscript hacc hw => ?_, fun R cf i n inv s hi hs hscript hacc hw => ?_⟩ <;>
    obtain ⟨k, hk⟩ := paddedLength_eq_two_pow n
  · obtain ⟨t, u, -, ht, hu, h⟩ := gen_runs setupB64 hi hs hscript hacc hk (valuesBelow_of_written numB64 hw)
    exact ⟨t, u, (exec_eq_perform i s).trans ht, (run_core_eq _ t).trans hu, h⟩
  · obtain ⟨t, u, -, h⟩ := gen_runs cf hi hs hscript hacc hk (valuesBelow_of_written cf.num hw)
    exact ⟨t, u, h⟩

/-! ## The transform of any length (R182) -/

/-- R200: a command of length at most 1 completes at once. -/
theorem issueLegal_degenerate {op : Nat} (hop : op < 4) (hs : s.Ready) (hn : n ≤ 1) :
    issueLegal (assemble n 0 inv op) s = .next (completeCommand (beginCommand (assemble n 0 inv op) s)) := by
  obtain ⟨hl, -⟩ := fields_assemble_command (n := n) (by simp [lenFits]; omega) inv hop
  rw [issueLegal, issueCommand_ready hs.1 hs.2]
  exact congrArg _ (if_pos (by rw [beginCommand_cmdl, hl]; exact hn))

/-- The transform of at most one element is that element. -/
theorem dft_degenerate (sg : Sign) (x : Nat → ℂ) (hn : n ≤ 1) (hj : j < n) : dft sg n x j = x j := by
  obtain rfl : n = 1 := by omega
  obtain rfl : j = 0 := by omega
  simp [dft, rootPower_zero]

/-- The elements that the reduction leaves under NUM_exact are the transform. -/
theorem holds_dft_of_genValue {draw : Nat → Nat → Nat → ℝ} {m : Mem ℝ} {k : Nat} {sg : Sign} {x : Nat → ℂ}
    (hk : paddedLength n = 2 ^ k) (h : valuesBelow m n (genValue (numExact draw) sg n k fun a => Cplx.ofC (x a))) :
    holds m n (dft sg n x) := fun j hj =>
  ⟨_, h j hj, toC_genValue (hk ▸ two_mul_lt_paddedLength n) hj⟩

/-- Settles O45: `toC_genValue`, for the reduction and at the end of the run; at N <= 1 nothing is transformed. -/
theorem generalTransformComputesDft : Obligations.GeneralTransformComputesDft := by
  refine ⟨fun draw d x hp h2 hmax hpad hx => ?_, fun draw g n inv s x hs hscript hacc hx => ?_⟩
  · obtain ⟨k, hk⟩ := paddedLength_eq_two_pow d.r.n
    obtain ⟨e, he, hv, -⟩ := genFlow_completes (numExact draw) ⟨hp, h2, hmax, hpad⟩ hk hx.values
    exact ⟨e, he, holds_dft_of_genValue hk hv⟩
  · by_cases hn : n ≤ 1
    · refine ⟨_, _, 0, issueLegal_degenerate (by decide) hs hn, rfl, rfl, rfl, rfl, fun j hj => ?_, fun _ => rfl⟩
      obtain ⟨v, hv, hvx⟩ := hx j hj
      exact ⟨v, hv, hvx.trans (dft_degenerate _ x hn hj).symm⟩
    · obtain ⟨k, hk⟩ := paddedLength_eq_two_pow n
      obtain ⟨t, u, hv, ht, hu, hbusy, hdone, herr, -⟩ :=
        gen_runs ⟨numExact draw, g⟩ (i := .xformGen n inv) rfl hs hscript (hacc.resolve_left hn) hk hx.values
      exact ⟨t, u, _, ht, hu, hbusy, hdone, herr, holds_dft_of_genValue hk hv, fun h => absurd h hn⟩

end Sys2Proof.Machine
end

section
/-! The issue of a command by its checks (60_exceptions.md R197): which error a word ends in, and what is left of the core. -/

namespace Sys2Proof.Machine

variable {R : Type}

/-! ## The first error of a legal word (R197 steps 5 to 7) -/

section LengthError

variable {par : Params} {op n : Nat}

theorem lengthError_of_le_one (h : n ≤ 1) : lengthError par op n = 0#4 := if_pos h

/-- R201: when ERR_LEN applies. -/
theorem lengthError_eq_len_iff : lengthError par op n = 2#4 ↔ 2 ≤ n ∧ op ≠ 2 ∧ isPow2 n = false := by
  unfold lengthError
  split_ifs with h1 h2 h3
  · exact iff_of_false (by decide) (by omega)
  · exact iff_of_true rfl ⟨by omega, h2⟩
  · exact iff_of_false (by decide) fun h => h2 h.2
  · exact iff_of_false (by decide) fun h => h2 h.2

/-- R199, R203: when ERR_CAP applies and ERR_LEN does not. -/
theorem lengthError_eq_cap_iff :
    lengthError par op n = 3#4 ↔
      2 ≤ n ∧ (op = 2 ∨ isPow2 n = true) ∧ (par.nmax < n ∨ (op = 2 ∧ par.lmax < paddedLength n)) := by
  have hlen : (op ≠ 2 ∧ isPow2 n = false) ↔ ¬ (op = 2 ∨ isPow2 n = true) := by simp
  unfold lengthError
  split_ifs with h1 h2 h3
  · exact iff_of_false (by decide) (by omega)
  · exact iff_of_false (by decide) fun h => hlen.1 h2 h.2.1
  · exact iff_of_true rfl ⟨by omega, not_not.1 (mt hlen.2 h2), h3⟩
  · exact iff_of_false (by decide) fun h => h3 h.2.2

/-- A word that passes all the checks has no error. -/
theorem lengthError_of_fits (hpow : op = 2 ∨ isPow2 n = true) (hn : n ≤ par.nmax)
    (hl : op = 2 → paddedLength n ≤ par.lmax) : lengthError par op n = 0#4 := by
  have hlen : ¬ (op ≠ 2 ∧ isPow2 n = false) := by simpa [imp_iff_not_or] using hpow
  have hcap : ¬ (par.nmax < n ∨ (op = 2 ∧ par.lmax < paddedLength n)) := by
    rintro (h | ⟨h2, h⟩)
    · omega
    · exact (hl h2).not_gt h
  rw [lengthError, if_neg hlen, if_neg hcap, ite_self]

/-- R167: the padded length of a 24-bit length is at most 2^26. -/
theorem paddedLength_le_of_lt (h : n < 2 ^ 24) : paddedLength n ≤ 2 ^ 26 :=
  paddedLength_le ((isPow2_iff _).2 ⟨26, rfl⟩) (by omega)

end LengthError

/-! ## The outcome of the checks -/

theorem ErrCode.code_ne_zero (e : ErrCode) : e.code ≠ 0#4 := by cases e <;> decide

theorem ErrCode.code_cases (e : ErrCode) : e.code = 1#4 ∨ e.code = 2#4 ∨ e.code = 3#4 := by cases e <;> decide

theorem ErrCode.code_inj {e e' : ErrCode} : e.code = e'.code ↔ e = e' := by cases e <;> cases e' <;> decide

/-- R197 steps 5 to 8 by the first error of the word: without one the error bits stay as they are, else error completion. -/
theorem checkCommand_outcome (s : State.Of R) :
    (lengthError s.dp.par (opField s.cmdl) (lenField s.cmdl) = 0#4 ∧ (checkCommand s).err = s.err ∧
      (checkCommand s).ecode = s.ecode) ∨
    ∃ e : ErrCode, lengthError s.dp.par (opField s.cmdl) (lenField s.cmdl) = e.code ∧
      checkCommand s = errorCompletion e s := by
  rcases checkCommand_cases s with ⟨h1, e⟩ | ⟨h2, hne, hnot, e⟩ | ⟨h2, hpow, hcap, e⟩ | ⟨-, hpow, hn, hl, e⟩
  · rw [e]
    exact .inl ⟨lengthError_of_le_one h1, rfl, rfl⟩
  · exact .inr ⟨.len, lengthError_eq_len_iff.2 ⟨h2, hne, hnot⟩, e⟩
  · exact .inr ⟨.cap, lengthError_eq_cap_iff.2 ⟨h2, hpow, hcap⟩, e⟩
  · obtain ⟨-, -, herr, hcode⟩ := acceptCommand_status s
    rw [e]
    exact .inl ⟨lengthError_of_fits hpow hn hl, herr, hcode⟩

section Outcome

variable {s : State.Of R}

theorem checkCommand_of_error {e : ErrCode} (h : lengthError s.dp.par (opField s.cmdl) (lenField s.cmdl) = e.code) :
    checkCommand s = errorCompletion e s := by
  rcases checkCommand_outcome s with ⟨h', -⟩ | ⟨e', h', heq⟩
  · exact absurd (h.symm.trans h') e.code_ne_zero
  · rw [heq, ErrCode.code_inj.1 (h'.symm.trans h)]

/-- R203: the code of a legal word is that of its first error. -/
theorem checkCommand_ecode (h : s.ecode = 0#4) :
    (checkCommand s).ecode = lengthError s.dp.par (opField s.cmdl) (lenField s.cmdl) := by
  rcases checkCommand_outcome s with ⟨h', -, e⟩ | ⟨c, h', e⟩ <;> rw [e, h']
  · exact h
  · rfl

end Outcome

/-! ## Acceptance (R197 step 8) -/

/-- OPC has the two bits of OP. -/
theorem ofNat_opField_eq_iff (w : Word) {j : Nat} (hj : j < 4) :
    BitVec.ofNat 2 (opField w) = BitVec.ofNat 2 j ↔ opField w = j := by
  rw [← BitVec.toNat_inj, BitVec.toNat_ofNat, BitVec.toNat_ofNat, Nat.mod_eq_of_lt (opField_lt w), Nat.mod_eq_of_lt hj]

/-- What acceptance latches (R197 step 8), and the first phase of each opcode (10_state.md R27). -/
theorem acceptCommand_latches (s : State.Of R) :
    (acceptCommand s).dp.r.opc = BitVec.ofNat 2 (opField s.cmdl) ∧ (acceptCommand s).dp.r.n = lenField s.cmdl ∧
      (acceptCommand s).dp.r.s = signOf (invField s.cmdl) ∧ (acceptCommand s).rdata = s.rdata ∧
      (acceptCommand s).seq = if opField s.cmdl = 0 then .pPerm else if opField s.cmdl = 1 then .tPerm else .gLcalc := by
  have h0 := ofNat_opField_eq_iff s.cmdl (j := 0) (by decide)
  have h1 := ofNat_opField_eq_iff s.cmdl (j := 1) (by decide)
  split_ifs with hop0 hop1
  · rw [acceptCommand_permute (h0.2 hop0)]
    exact ⟨rfl, rfl, rfl, rfl, rfl⟩
  · rw [acceptCommand_pow2 (h1.2 hop1)]
    exact ⟨rfl, rfl, rfl, rfl, rfl⟩
  · rw [acceptCommand_gen (mt h0.1 hop0) (mt h1.1 hop1)]
    exact ⟨rfl, rfl, rfl, rfl, rfl⟩

/-! ## The issue of a word (R197 steps 1 to 4) -/

section Issue

variable {w : Word} {rest : State.Of R → State.Of R} {s : State.Of R}

theorem issueCommand_of_pfault (h : s.dp.pfault = true) : issueCommand w rest s = .fault .commandAfterProtocolFault :=
  if_pos h

theorem issueCommand_busy (hp : s.dp.pfault = false) (hb : s.busy = true) :
    issueCommand w rest s = .next (protocolFault s) := by
  simp [issueCommand, hp, hb]

theorem issueIllegal_ready (w : Word) (hs : s.Ready) :
    issueIllegal w s = .next { s with cmdl := w, done := false, err := true, ecode := 1#4 } :=
  issueCommand_ready hs.1 hs.2

end Issue

/-- The write of any word to CMD issues a command. -/
theorem commandWrite_eq_issueCommand (w : Word) (s : State) : ∃ rest, commandWrite w s = issueCommand w rest s := by
  by_cases h : illegalWord w
  · exact ⟨_, commandWrite_of_illegal h s⟩
  · exact ⟨_, commandWrite_of_legal h s⟩

/-- R197 step 2: a word written while BUSY = 1 is not decoded. -/
theorem commandWrite_busy {s : State} (w : Word) (hp : s.dp.pfault = false) (hb : s.busy = true) :
    commandWrite w s = .next (protocolFault s) := by
  obtain ⟨rest, e⟩ := commandWrite_eq_issueCommand w s
  rw [e, issueCommand_busy hp hb]

theorem commandWrite_ready_illegal {s : State} {w : Word} (h : illegalWord w) (hs : s.Ready) :
    commandWrite w s = .next { s with cmdl := w, done := false, err := true, ecode := 1#4 } :=
  (commandWrite_of_illegal h s).trans (issueIllegal_ready w hs)

theorem commandWrite_ready_legal {s : State} {w : Word} (h : ¬ illegalWord w) (hs : s.Ready) :
    commandWrite w s = .next (checkCommand (beginCommand w s)) :=
  (commandWrite_of_legal h s).trans (issueCommand_ready hs.1 hs.2)

/-! ## The five instructions that are legal commands (30_encoding.md R78, R83) -/

section Command

variable {i : Instr} {op n : Nat} {inv : Bool}

theorem commandWord_eq_assemble (op : Nat) (inv : Bool) (n : Nat) : commandWord op inv n = assemble n 0 inv op := by
  simp [commandWord, assemble]

theorem commandArgs_op_lt (h : commandArgs i = some (op, inv, n)) : op < 3 := by
  cases i <;> cases h <;> decide

/-- Each of them is the write of its word. -/
theorem exec_command (h : commandArgs i = some (op, inv, n)) (s : State) :
    exec i s = issueLegal (commandWord op inv n) s := by
  rw [commandWord_eq_assemble]
  cases i <;> cases h <;> rfl

/-- OP and the low bits of LEN do not overlap, whatever the length is. -/
theorem opField_commandWord (hop : op < 4) : opField (commandWord op inv n) = op := by
  have := inv.toNat_lt
  rw [opField_eq, commandWord, BitVec.toNat_ofNat]
  omega

theorem fields_commandWord (hop : op < 4) (hn : n < 2 ^ 24) :
    lenField (commandWord op inv n) = n ∧ invField (commandWord op inv n) = inv ∧ opField (commandWord op inv n) = op := by
  obtain ⟨hl, -, hi, ho⟩ := fields_assemble (len := n) (inv := inv) (rsv := 0) (by decide) hop hn
  rw [commandWord_eq_assemble]
  exact ⟨hl, hi, ho⟩

/-- On a ready core it goes on to the checks of R197. -/
theorem exec_command_ready {s : State} (h : commandArgs i = some (op, inv, n)) (hs : s.Ready) :
    exec i s = .next (checkCommand (beginCommand (commandWord op inv n) s)) := by
  rw [exec_command h, issueLegal, issueCommand_ready hs.1 hs.2]

/-- R197 step 8: an acceptable one is accepted. -/
theorem exec_accepted {s : State} (h : commandArgs i = some (op, inv, n)) (hs : s.Ready) (hacc : acceptable s.dp.par op n) :
    exec i s = .next (acceptCommand (beginCommand (commandWord op inv n) s)) := by
  rw [exec_command h, commandWord_eq_assemble]
  exact issueLegal_acceptable inv (commandArgs_op_lt h) hs hacc

/-- R202: one that has an error ends in it, with nothing else changed. -/
theorem exec_of_error {s : State} {e : ErrCode} (h : commandArgs i = some (op, inv, n)) (hs : s.Ready) (hn : n < 2 ^ 24)
    (he : lengthError s.dp.par op n = e.code) :
    exec i s = .next { s with cmdl := commandWord op inv n, done := false, err := true, ecode := e.code } := by
  have hop := commandArgs_op_lt h
  obtain ⟨hl, -, ho⟩ := fields_commandWord (inv := inv) (show op < 4 by omega) hn
  rw [exec_command_ready h hs, checkCommand_of_error]
  · rfl
  · rwa [beginCommand_cmdl, hl, ho]

/-- Its code is that of its first error. -/
theorem exec_command_ecode {s t : State} (h : commandArgs i = some (op, inv, n)) (hs : s.Ready) (ht : exec i s = .next t) :
    t.ecode = lengthError s.dp.par op (lenField (commandWord op inv n)) := by
  have hop := commandArgs_op_lt h
  rw [exec_command_ready h hs] at ht
  obtain rfl := Host.Outcome.next.inj ht
  rw [checkCommand_ecode rfl, beginCommand_dp, beginCommand_cmdl, opField_commandWord (by omega)]

end Command

end Sys2Proof.Machine
end

section
/-! The host's accesses that are protocol faults, and those after one (60_exceptions.md R206). -/

namespace Sys2Proof.Machine

variable {R : Type} {cf : Setup R} {s : State.Of R} {k : Nat}

theorem busTarget_elem_lt {par : Params} {a len : Nat} (h : busTarget par a len = some (.elem k)) : k < par.nmax := by
  unfold busTarget at h
  split at h
  · cases h
  · split at h
    · cases h
    · split at h
      · cases h
        rename_i hin
        obtain ⟨-, -, -, hlt⟩ := hin
        exact hlt
      · cases h

theorem hostWrite_busy {v : Cplx R} (hb : s.busy = true) (hk : k < s.dp.par.nmax) :
    hostWrite k v s = .next (protocolFault s) := by
  simp [hostWrite, hk.not_ge, hb]

theorem hostRead_busy (cf : Setup R) (b : Bool) (hb : s.busy = true) (hk : k < s.dp.par.nmax) :
    hostRead cf b k s =
      .next { protocolFault s with rdata := elemAnswer cf s.dp.par.layout b (freeElem cf.num s.dp.draws k) } := by
  simp [hostRead, hk.not_ge, hb]

/-- After a protocol fault the read of an element of DMEM gives a free value, whatever is listed. -/
theorem memRead_of_pfault {nm : Num R} {d : Datapath R} (hp : d.pfault = true) (hk : k < d.par.nmax) :
    memRead nm .dmem k d = .ok (freeElem nm d.draws k) := by
  rcases memRead_cases nm .dmem k d with ⟨hle, -⟩ | ⟨-, -, -, e⟩ | ⟨-, hn, -⟩ | ⟨-, hn, -⟩
  · exact absurd hk hle.not_gt
  · exact e
  · exact absurd ⟨hp, rfl⟩ hn
  · exact absurd ⟨hp, rfl⟩ hn

/-- After a protocol fault the host reads a free value, while BUSY = 1 or not. -/
theorem hostRead_of_pfault (cf : Setup R) (b : Bool) (hp : s.dp.pfault = true) (hk : k < s.dp.par.nmax) :
    ∃ t, hostRead cf b k s = .next t ∧
      t.rdata = elemAnswer cf s.dp.par.layout b (freeElem cf.num s.dp.draws k) := by
  cases hb : s.busy with
  | true => exact ⟨_, hostRead_busy cf b hb hk, rfl⟩
  | false =>
    have hread : hostRead cf b k s =
        .next { redraw s with rdata := elemAnswer cf s.dp.par.layout b (freeElem cf.num s.dp.draws k) } := by
      simp [hostRead, hk.not_ge, hb, memRead_of_pfault hp hk]
    exact ⟨_, hread, rfl⟩

/-- The accesses that the host may make only while BUSY = 0 (R206): a write of CMD, a write or a read of an element, each also as
a bus access. -/
def HostMove.needsIdle (par : Params) (m : HostMove R) : Prop :=
  (∃ w, m = .regWrite 0 w) ∨ (∃ k v, m = .hwrite k v ∧ k < par.nmax) ∨ (∃ k, m = .hread k ∧ k < par.nmax) ∨
    (∃ a bs, m = .busWrite a bs ∧ busTarget par a bs.length = some (.reg 0)) ∨
    (∃ a bs k, m = .busWrite a bs ∧ busTarget par a bs.length = some (.elem k)) ∨
    (∃ a len k, m = .busRead a len ∧ busTarget par a len = some (.elem k))

theorem HostMove.needsIdle.waits {par : Params} {m : HostMove R} (h : m.needsIdle par) : waits m = false := by
  rcases h with ⟨w, rfl⟩ | ⟨k, v, rfl, -⟩ | ⟨k, rfl, -⟩ | ⟨a, bs, rfl, -⟩ | ⟨a, bs, k, rfl, -⟩ | ⟨a, len, k, rfl, -⟩ <;> rfl

/-- R206: each of them is a protocol fault while BUSY = 1, with an answer where it is a read. -/
theorem HostMove.needsIdle.protocolFault {s : State} {m : HostMove F64} (h : m.needsIdle s.dp.par) (hb : s.busy = true)
    (hp : s.dp.pfault = false) :
    ∃ x, hostMoveBy exec setupB64 m s = .next { Machine.protocolFault s with rdata := x } := by
  rcases h with ⟨w, rfl⟩ | ⟨k, v, rfl, hk⟩ | ⟨k, rfl, hk⟩ | ⟨a, bs, rfl, ht⟩ | ⟨a, bs, k, rfl, ht⟩ | ⟨a, len, k, rfl, ht⟩
  · exact ⟨s.rdata, commandWrite_busy w hp hb⟩
  · exact ⟨s.rdata, hostWrite_busy hb hk⟩
  · exact ⟨_, hostRead_busy setupB64 false hb hk⟩
  · exact ⟨s.rdata, (hostMoveBy_busWrite_reg ht).trans (commandWrite_busy (wordOfBytes bs) hp hb)⟩
  · exact ⟨s.rdata, (hostMoveBy_busWrite_elem ht).trans (hostWrite_busy hb (busTarget_elem_lt ht))⟩
  · exact ⟨_, (hostMoveBy_busRead_elem ht).trans (hostRead_busy setupB64 true hb (busTarget_elem_lt ht))⟩

end Sys2Proof.Machine
end

section
/-! The statements about errors and protocol faults (60_exceptions.md R197 to R206). -/

namespace Sys2Proof.Machine

/-- Settles O12: by when ERR_LEN applies. -/
theorem lengthErrorRaised : Obligations.LengthErrorRaised := by
  refine ⟨fun i op n inv s hi hs hop h2 hn hpow => ?_, fun i n inv s t hi hs ht hcode => ?_⟩
  · exact exec_of_error (e := .len) hi hs hn (lengthError_eq_len_iff.2 ⟨h2, hop, hpow⟩)
  · rw [exec_command_ecode hi hs ht] at hcode
    obtain ⟨-, hne, -⟩ := lengthError_eq_len_iff.1 hcode
    exact hne rfl

/-- Settles O13: by when ERR_CAP applies; LEN has 24 bits, and a 24-bit length is padded to at most 2^26. -/
theorem capacityErrorRaised : Obligations.CapacityErrorRaised := by
  refine ⟨fun i op n inv s hi hs h2 hn hpow hcap => ?_, fun i op n inv s t hi hs hnmax hlmax ht hcode => ?_⟩
  · exact exec_of_error (e := .cap) hi hs hn (lengthError_eq_cap_iff.2 ⟨h2, hpow, hcap⟩)
  · have hlen : lenField (commandWord op inv n) < 2 ^ 24 := Nat.mod_lt _ (by decide)
    rw [exec_command_ecode hi hs ht] at hcode
    obtain ⟨-, -, h | ⟨-, h⟩⟩ := lengthError_eq_cap_iff.1 hcode
    · omega
    · have := paddedLength_le_of_lt hlen
      omega

/-- Settles O15: an illegal word, or a legal one by its first error; without an error ERR stays cleared. -/
theorem errorCompletionChangesOnlyStatus : Obligations.ErrorCompletionChangesOnlyStatus := by
  intro w s t hs ht herr
  by_cases hw : illegalWord w
  · rw [commandWrite_ready_illegal hw hs] at ht
    obtain rfl := Host.Outcome.next.inj ht
    exact ⟨rfl, .inl rfl, (if_pos hw).symm⟩
  · rw [commandWrite_ready_legal hw hs] at ht
    obtain rfl := Host.Outcome.next.inj ht
    rw [if_neg hw, ← opField_eq, ← lenField_eq]
    rcases checkCommand_outcome (beginCommand w s) with ⟨-, h, -⟩ | ⟨e, h, heq⟩
    · exact absurd (h.symm.trans herr) Bool.false_ne_true
    · rw [heq]
      exact ⟨rfl, e.code_cases, h.symm⟩

/-- Settles O16: the code of an illegal word is ERR_ILLEGAL's, that of a legal one is its first error's. -/
theorem errorPriority : Obligations.ErrorPriority := by
  refine fun w s => ⟨fun hs => ?_, commandWrite_busy w⟩
  by_cases hw : illegalWord w
  · exact ⟨_, commandWrite_ready_illegal hw hs, (if_pos hw).symm⟩
  · rw [if_neg hw, ← opField_eq, ← lenField_eq]
    exact ⟨_, commandWrite_ready_legal hw hs, checkCommand_ecode rfl⟩

/-- Settles O18: by what acceptance latches and what it leaves unchanged. -/
theorem commandAccepted : Obligations.CommandAccepted := by
  intro i op n inv s hi hs hacc
  have hop := commandArgs_op_lt hi
  obtain ⟨-, hn, -⟩ := id hacc
  obtain ⟨hl, hv, ho⟩ := fields_commandWord (inv := inv) (show op < 4 by omega) hn
  obtain ⟨hbusy, hdone, herr, hcode⟩ := acceptCommand_status (beginCommand (commandWord op inv n) s)
  obtain ⟨hfixed, hmem, hfaulty, hscript, hcmdl⟩ := acceptCommand_frame (beginCommand (commandWord op inv n) s)
  obtain ⟨hopc, hrn, hrs, hrdata, hseq⟩ := acceptCommand_latches (beginCommand (commandWord op inv n) s)
  rw [beginCommand_cmdl, ho] at hopc hseq
  rw [beginCommand_cmdl, hl] at hrn
  rw [beginCommand_cmdl, hv] at hrs
  exact ⟨_, exec_accepted hi hs hacc, hcmdl, hbusy, hdone, herr, hcode, hopc, hrn,
    hrs, hseq, hmem, hfixed, hfaulty, hscript, hrdata⟩

/-- Settles O51: each of the six accesses is a protocol fault, with an answer where it is a read. -/
theorem accessWhileBusyIsProtocolFault : Obligations.AccessWhileBusyIsProtocolFault := by
  intro s m rest hm hb hp hacc
  have hm' : m.needsIdle s.dp.par := hacc
  obtain ⟨x, hx⟩ := HostMove.needsIdle.protocolFault (s := { s with script := rest }) hm' hb hp
  obtain ⟨-, -, -, hbit, -⟩ := statusWordFields { protocolFault { s with script := rest } with rdata := x }
  exact ⟨_, (step_of_script hm hm'.waits).trans hx, rfl, hbit, rfl⟩

/-- Settles O11: the first check of R197 ends the command. -/
theorem degenerateLengthCompletes : Obligations.DegenerateLengthCompletes := by
  intro i op n inv s hi hs hn
  have hop := commandArgs_op_lt hi
  rw [exec_command hi, commandWord_eq_assemble, issueLegal_degenerate (by omega) hs hn]
  rfl

/-- Settles O14: each is the issue of an illegal word. -/
theorem illegalEncodingsRaise : Obligations.IllegalEncodingsRaise := by
  refine ⟨fun len rsv inv s hs _ _ => ?_, fun len s hs _ => ?_, fun w s hs hr => commandWrite_ready_illegal (.inl hr) hs⟩
  · exact issueIllegal_ready (assemble len rsv inv 3) hs
  · have hword : assemble len 0 true 0 = BitVec.ofNat 32 (len * 256 + 4) := by simp [assemble]
    exact hword ▸ issueIllegal_ready (assemble len 0 true 0) hs

/-- Settles O17: step 3 of R197 overwrites all three. -/
theorem issueForgetsEarlierStatus : Obligations.IssueForgetsEarlierStatus := by
  intro w s d e c hs
  have hs' : State.Of.Ready { s with done := d, err := e, ecode := c } := hs
  by_cases hw : illegalWord w
  · rw [commandWrite_ready_illegal hw hs, commandWrite_ready_illegal hw hs']
  · rw [commandWrite_ready_legal hw hs, commandWrite_ready_legal hw hs']
    rfl

/-- Settles O53: the read draws a free value, and the issue of a command stops at step 1 of R197. -/
theorem afterProtocolFaultNothingIsPromised : Obligations.AfterProtocolFaultNothingIsPromised := by
  refine fun s rest hp => ⟨fun k h hk => ?_, fun w h => ?_⟩ <;> rw [step_of_script h rfl]
  · exact hostRead_of_pfault (s := { s with script := rest }) setupB64 false hp hk
  · obtain ⟨cont, e⟩ := commandWrite_eq_issueCommand w { s with script := rest }
    exact e.trans (issueCommand_of_pfault hp)

end Sys2Proof.Machine
end

section
/-! How many steps an accepted command has left (70_reset_and_hazards.md R237, 60_exceptions.md R211): a step of the
sequencer takes one off. -/

namespace Sys2Proof.Machine

variable {R : Type} {s : State.Of R}

/-! ## The steps that are left of STAGES (42_pow2_transform.md R148) -/

/-- Steps from the test `while STEP < n` on: n/2 BFLY for each stage that is left, and a TWLD for each of its groups. -/
def stagesLeft (n step : Nat) : Nat := Nat.log2 (n / step) * (n / 2) + (n - step)

/-- A stage is STEP groups, each a TWLD and its pairs. -/
theorem stagesLeft_of_lt {n step : Nat} (hn : isPow2 n = true) (hs : isPow2 step = true) (h : step < n) :
    stagesLeft n step = step * (1 + n / (2 * step)) + stagesLeft n (2 * step) := by
  obtain ⟨q, rfl⟩ := two_mul_dvd_of_isPow2_lt hs hn h
  have hpos : 0 < step := isPow2_pos hs
  have hq : 0 < q := Nat.pos_of_ne_zero (by rintro rfl; omega)
  have hpairs : 2 * step * q / (2 * step) = q := Nat.mul_div_cancel_left _ (by omega)
  have hhalf : 2 * step * q / 2 = step * q := by rw [Nat.mul_assoc, Nat.mul_div_cancel_left _ two_pos]
  have hlog : Nat.log2 (2 * step * q / step) = Nat.log2 q + 1 := by
    rw [Nat.mul_right_comm, Nat.mul_div_cancel _ hpos, Nat.log2_two_mul hq.ne']
  have hle : step ≤ step * q := Nat.le_mul_of_pos_right _ hq
  rw [stagesLeft, stagesLeft, hlog, hpairs, hhalf, Nat.succ_mul, Nat.mul_add, Nat.mul_assoc 2]
  omega

theorem stagesLeft_of_le {n step : Nat} (h : n ≤ step) : stagesLeft n step = 0 := by
  have hdiv : n / step ≤ 1 := Nat.div_le_of_le_mul (by omega)
  have hlog : Nat.log2 (n / step) = 0 := by
    rcases Nat.le_one_iff_eq_zero_or_eq_one.1 hdiv with e | e <;> rw [e] <;> decide
  rw [stagesLeft, hlog, Nat.zero_mul, Nat.zero_add, Nat.sub_eq_zero_of_le h]

/-- FFT2 is n turns of BITREV and its stages. -/
theorem fft2Steps_eq (n : Nat) : fft2Steps n = n + stagesLeft n 1 := by
  rw [fft2Steps, stagesLeft, Nat.div_one, Nat.mul_comm]
  omega

/-- Steps from group `g` of the stage on: a TWLD and the pairs of each group that is left, and the later stages. -/
def Regs.groupsLeft (r : Regs R) (g : Nat) : Nat :=
  (r.step - g) * (1 + r.nn / (2 * r.step)) + stagesLeft r.nn (2 * r.step)

/-- Steps to the end of BITREV, STAGES or FFT2, whichever is the routine of the phase. -/
def State.Of.routineLeft (s : State.Of R) : Nat :=
  match s.upos with
  | .single => 0
  | .perm => s.dp.r.nn - s.dp.r.i + if s.seq = .pPerm then 0 else stagesLeft s.dp.r.nn 1
  | .twld => s.dp.r.groupsLeft s.dp.r.g
  | .bfly => s.dp.r.nn / (2 * s.dp.r.step) - s.dp.r.lo / (2 * s.dp.r.step) + s.dp.r.groupsLeft (s.dp.r.g + 1)

/-! ## The steps that are left of a command (10_state.md R27) -/

/-- Steps of the phases that come after `ph`, at length `n` and padded length `l`. -/
def Phase.after (n l : Nat) : Phase → Nat
  | .idle | .pPerm | .tPerm | .tStages | .gWback => 0
  | .gIffta => n
  | .gPmul => fft2Steps l + n
  | .gFftb => l + fft2Steps l + n
  | .gFfta => l + 2 * fft2Steps l + n
  | .gBkern => l + 3 * fft2Steps l + n
  | .gCmod => 2 * l + 3 * fft2Steps l + n
  | .gChirp => 3 * l + 3 * fft2Steps l + n
  | .gLcalc => n + 3 * l + 3 * fft2Steps l + n

/-- Steps to the end of the command. LCALC has yet to put L(N) into L. -/
def State.Of.stepsLeft (s : State.Of R) : Nat :=
  match s.seq with
  | .idle => 0
  | .gLcalc => 1 + Phase.gLcalc.after s.dp.r.n (paddedLength s.dp.r.n)
  | .gChirp | .gWback => s.dp.r.n - s.dp.r.k + s.seq.after s.dp.r.n s.dp.r.l
  | .gCmod | .gBkern | .gPmul => s.dp.r.l - s.dp.r.k + s.seq.after s.dp.r.n s.dp.r.l
  | .pPerm | .tPerm | .tStages | .gFfta | .gFftb | .gIffta => s.routineLeft + s.seq.after s.dp.r.n s.dp.r.l

theorem stepsLeft_of_routine (hr : s.seq.isRoutine = true) :
    s.stepsLeft = s.routineLeft + s.seq.after s.dp.r.n s.dp.r.l := by
  rcases Phase.routine_cases hr with hs | hs | hs | hs | hs | hs <;> simp only [State.Of.stepsLeft, hs]

theorem stepsLeft_of_idle (h : s.SeqWf) (hb : s.busy = false) : s.stepsLeft = 0 := by
  simp only [State.Of.stepsLeft, h.seq_of_idle hb]

/-- An accepted command has all its steps left. -/
theorem acceptCommand_stepsLeft (s : State.Of R) :
    (acceptCommand s).stepsLeft = commandSteps (opField s.cmdl) (lenField s.cmdl) := by
  have h0 := ofNat_opField_eq_iff s.cmdl (j := 0) (by decide)
  have h1 := ofNat_opField_eq_iff s.cmdl (j := 1) (by decide)
  unfold commandSteps
  split_ifs with hop0 hop1
  · rw [acceptCommand_permute (h0.2 hop0)]
    rfl
  · rw [acceptCommand_pow2 (h1.2 hop1), fft2Steps_eq]
    rfl
  · rw [acceptCommand_gen (mt h0.1 hop0) (mt h1.1 hop1)]
    simp only [State.Of.stepsLeft, Phase.after, State.Of.latched, State.Of.withRegs_dp, Datapath.withRegs_r]
    omega

/-! ## A step takes one off -/

/-- A phase whose routine is FFT2 has all its steps left. -/
theorem startFft_stepsLeft {ph : Phase} (hr : ph.isRoutine = true) (hne : ph ≠ .pPerm) (m : MemSel) (l : Nat) (sg : Sign)
    (s : State.Of R) : (startFft ph m l sg s).stepsLeft = fft2Steps l + ph.after s.dp.r.n s.dp.r.l := by
  have hroutine : (startFft ph m l sg s).routineLeft = l + stagesLeft l 1 := congrArg (l + ·) (if_neg hne)
  rw [stepsLeft_of_routine (s := startFft ph m l sg s) hr, hroutine, fft2Steps_eq]
  rfl

/-- The next phase has all its steps left. -/
theorem endPhase_stepsLeft (s : State.Of R) : (endPhase s).stepsLeft = s.seq.after s.dp.r.n s.dp.r.l := by
  unfold endPhase
  cases hs : s.seq
  case idle => simp only [State.Of.stepsLeft, hs, Phase.after]
  case pPerm | tPerm | tStages | gWback => rfl
  case gPmul => simp (disch := decide) only [startFft_stepsLeft, Phase.after]
  case gBkern | gFfta =>
    simp (disch := decide) only [startFft_stepsLeft, Phase.after]
    omega
  all_goals
    simp only [State.Of.stepsLeft, startKPhase_seq, startKPhase_dp, Datapath.withRegs_r, Regs.startK_k, Regs.startK_n,
      Regs.startK_l, Phase.after]
    omega

theorem advanceTwld_stepsLeft (hr : s.seq.isRoutine = true) (hu : s.upos = .twld) (hg : s.dp.r.g < s.dp.r.step) :
    s.stepsLeft = (advanceTwld s).stepsLeft + 1 := by
  have hfirst : s.dp.r.g / (2 * s.dp.r.step) = 0 := Nat.div_eq_of_lt (by omega)
  have hgroup : s.dp.r.step - s.dp.r.g = s.dp.r.step - (s.dp.r.g + 1) + 1 := by omega
  have hnext : (advanceTwld s).stepsLeft =
      s.dp.r.nn / (2 * s.dp.r.step) - s.dp.r.g / (2 * s.dp.r.step) + s.dp.r.groupsLeft (s.dp.r.g + 1) +
        s.seq.after s.dp.r.n s.dp.r.l := stepsLeft_of_routine (s := advanceTwld s) hr
  rw [hnext, hfirst, stepsLeft_of_routine hr]
  simp only [State.Of.routineLeft, Regs.groupsLeft, hu]
  rw [hgroup, Nat.succ_mul]
  generalize s.dp.r.nn / (2 * s.dp.r.step) = q
  omega

section Routine

variable (hr : s.seq.isRoutine = true) (hn : isPow2 s.dp.r.nn = true)
include hr hn

/-- At the test of the stage loop the stages that are left are still to come. -/
theorem stageTest_stepsLeft (hp : isPow2 s.dp.r.step = true) :
    (stageTest s).stepsLeft = stagesLeft s.dp.r.nn s.dp.r.step + s.seq.after s.dp.r.n s.dp.r.l := by
  by_cases h : s.dp.r.step < s.dp.r.nn
  · rw [stageTest_of_lt h, stagesLeft_of_lt hn hp h]
    exact stepsLeft_of_routine (s := { s.withRegs Regs.startStage with upos := .twld }) hr
  · rw [stageTest_of_not_lt h, stagesLeft_of_le (Nat.le_of_not_lt h), endPhase_stepsLeft, Nat.zero_add]

/-- After BITREV the stages of FFT2 are still to come; PERMUTE has none. -/
theorem endPerm_stepsLeft :
    (endPerm s).stepsLeft =
      (if s.seq = .pPerm then 0 else stagesLeft s.dp.r.nn 1) + s.seq.after s.dp.r.n s.dp.r.l := by
  have one : isPow2 1 = true := by decide
  unfold endPerm
  split
  case h_1 hs => rw [if_pos hs, Nat.zero_add, endPhase_stepsLeft]
  case h_2 hs =>
    rw [hs]
    exact stageTest_stepsLeft (s := { s.withRegs Regs.startStages with seq := .tStages }) rfl hn one
  case h_3 hs _ =>
    rw [if_neg hs]
    exact stageTest_stepsLeft (s := s.withRegs Regs.startStages) hr hn one

theorem advancePerm_stepsLeft (hu : s.upos = .perm) (hi : s.dp.r.i < s.dp.r.nn) :
    s.stepsLeft = (advancePerm s).stepsLeft + 1 := by
  rw [stepsLeft_of_routine hr]
  by_cases h : s.dp.r.i + 1 < s.dp.r.nn
  · have hnext : (s.withRegs Regs.nextPerm).stepsLeft =
        (s.withRegs Regs.nextPerm).routineLeft + s.seq.after s.dp.r.n s.dp.r.l :=
      stepsLeft_of_routine (s := s.withRegs Regs.nextPerm) hr
    rw [advancePerm_of_lt h, hnext]
    simp only [State.Of.routineLeft, State.Of.withRegs, Datapath.withRegs_r, Regs.nextPerm_i, Regs.nextPerm_nn, hu]
    omega
  · have hend : (endPerm (s.withRegs Regs.nextPerm)).stepsLeft =
        (if s.seq = .pPerm then 0 else stagesLeft s.dp.r.nn 1) + s.seq.after s.dp.r.n s.dp.r.l :=
      endPerm_stepsLeft (s := s.withRegs Regs.nextPerm) hr hn
    rw [advancePerm_of_not_lt h, hend]
    simp only [State.Of.routineLeft, hu]
    omega

/-- After a group the later ones are still to come. -/
theorem advanceGroup_stepsLeft (hp : isPow2 s.dp.r.step = true) :
    (advanceGroup s).stepsLeft = s.dp.r.groupsLeft (s.dp.r.g + 1) + s.seq.after s.dp.r.n s.dp.r.l := by
  by_cases h : s.dp.r.g + 1 < s.dp.r.step
  · rw [advanceGroup_of_lt h]
    exact stepsLeft_of_routine (s := { s.withRegs Regs.nextGroup with upos := .twld }) hr
  · rw [advanceGroup_of_not_lt h, Regs.groupsLeft, Nat.sub_eq_zero_of_le (Nat.le_of_not_lt h), Nat.zero_mul, Nat.zero_add]
    exact stageTest_stepsLeft (s := s.withRegs fun r => r.nextGroup.nextStage) hr hn (isPow2_two_mul hp)

theorem advanceBfly_stepsLeft (hu : s.upos = .bfly) (hp : s.dp.r.PairWf) :
    s.stepsLeft = (advanceBfly s).stepsLeft + 1 := by
  obtain ⟨⟨hstep, hlt, -⟩, hlo, -⟩ := hp
  have hpos : 0 < 2 * s.dp.r.step := Nat.mul_pos two_pos (isPow2_pos hstep)
  have hpair : s.dp.r.lo / (2 * s.dp.r.step) < s.dp.r.nn / (2 * s.dp.r.step) :=
    Nat.div_lt_div_of_lt_of_dvd (two_mul_dvd_of_isPow2_lt hstep hn hlt) hlo
  have hdiv : (s.dp.r.lo + 2 * s.dp.r.step) / (2 * s.dp.r.step) = s.dp.r.lo / (2 * s.dp.r.step) + 1 :=
    Nat.add_div_right _ hpos
  rw [stepsLeft_of_routine hr]
  by_cases h : s.dp.r.lo + 2 * s.dp.r.step < s.dp.r.nn
  · have hnext : State.Of.stepsLeft (s.withRegs fun r => r.nextPair.startPair) =
        State.Of.routineLeft (s.withRegs fun r => r.nextPair.startPair) + s.seq.after s.dp.r.n s.dp.r.l :=
      stepsLeft_of_routine (s := s.withRegs fun r => r.nextPair.startPair) hr
    rw [advanceBfly_of_lt h, hnext]
    simp only [State.Of.routineLeft, State.Of.withRegs_upos, State.Of.withRegs_dp, Datapath.withRegs_r, Regs.groupsLeft,
      Regs.startPair_nn, Regs.startPair_step, Regs.startPair_lo, Regs.startPair_g, Regs.nextPair_nn, Regs.nextPair_step,
      Regs.nextPair_lo, Regs.nextPair_g, hu, hdiv]
    omega
  · have hlast := Nat.div_le_div_right (c := 2 * s.dp.r.step) (Nat.le_of_not_lt h)
    have hnext : (advanceGroup (s.withRegs Regs.nextPair)).stepsLeft =
        s.dp.r.groupsLeft (s.dp.r.g + 1) + s.seq.after s.dp.r.n s.dp.r.l :=
      advanceGroup_stepsLeft (s := s.withRegs Regs.nextPair) hr hn hstep
    rw [advanceBfly_of_not_lt h, hnext]
    simp only [State.Of.routineLeft, hu]
    omega

end Routine

theorem advanceRoutine_stepsLeft (h : s.SeqWf) (hr : s.seq.isRoutine = true) :
    s.stepsLeft = (advanceRoutine s).stepsLeft + 1 := by
  obtain ⟨hw, ⟨-, hu, hi, -⟩ | ⟨-, -, ⟨hu, -, -, -, hg⟩ | ⟨hu, hp⟩⟩⟩ := h.routine hr <;> simp only [advanceRoutine, hu]
  · exact advancePerm_stepsLeft hr hw.isPow2_nn hu hi
  · exact advanceTwld_stepsLeft hr hu hg
  · exact advanceBfly_stepsLeft hr hw.isPow2_nn hu hp

/-- A turn of a loop over K. -/
theorem advanceK_stepsLeft {count : Nat} (hk : s.dp.r.k < count)
    (hleft : s.stepsLeft = count - s.dp.r.k + s.seq.after s.dp.r.n s.dp.r.l)
    (hnext : (s.withRegs Regs.nextK).stepsLeft = count - (s.dp.r.k + 1) + s.seq.after s.dp.r.n s.dp.r.l) :
    s.stepsLeft = (advanceK count s).stepsLeft + 1 := by
  rw [hleft]
  by_cases h : s.dp.r.k + 1 < count
  · rw [advanceK_of_lt h, hnext]
    omega
  · have hend : (endPhase (s.withRegs Regs.nextK)).stepsLeft = s.seq.after s.dp.r.n s.dp.r.l := endPhase_stepsLeft _
    rw [advanceK_of_not_lt h, hend]
    omega

/-- The advance takes one off, in every phase. -/
theorem advancePhase_stepsLeft (h : s.SeqWf) (hb : s.busy = true) (hm : s.MicroDone) :
    s.stepsLeft = (advancePhase s).stepsLeft + 1 := by
  by_cases hr : s.seq.isRoutine = true
  · rw [advancePhase_of_routine hr]
    exact advanceRoutine_stepsLeft h hr
  · unfold State.Of.SeqWf at h
    unfold State.Of.MicroDone at hm
    unfold advancePhase
    cases hs : s.seq <;> simp only [hs] at h hm hr ⊢
    case idle => exact absurd (hb.symm.trans h) nofun
    case gLcalc =>
      rw [endPhase_stepsLeft, hs, hm, Nat.add_comm]
      simp only [State.Of.stepsLeft, hs]
    case gChirp | gCmod | gBkern =>
      obtain ⟨-, -, hk, -⟩ := h
      refine advanceK_stepsLeft hk ?_ ?_ <;> simp [State.Of.stepsLeft, hs]
    case gPmul | gWback =>
      obtain ⟨-, -, hk⟩ := h
      refine advanceK_stepsLeft hk ?_ ?_ <;> simp [State.Of.stepsLeft, hs]
    all_goals exact absurd rfl hr

/-- `stepsLeft` reads index registers alone, and not the L that LCALC writes. -/
theorem microDp_stepsLeft {nm : Num R} {d : Datapath R} (hd : microDp nm s = .ok d) :
    State.Of.stepsLeft { s with dp := d } = s.stepsLeft := by
  have hr := (microDp_touches hd).regs
  by_cases hs : s.seq = .gLcalc
  · rw [State.Of.afterLcalc_of_eq hs] at hr
    simp only [State.Of.stepsLeft, hs]
    rw [hr]
    rfl
  · rw [State.Of.afterLcalc_of_ne hs] at hr
    simp only [State.Of.stepsLeft, State.Of.routineLeft, Regs.groupsLeft]
    rw [hr]

theorem redraw_stepsLeft (s : State.Of R) : (redraw s).stepsLeft = s.stepsLeft := by
  rcases redraw_cases s with h | h <;> rw [h]
  rfl

end Sys2Proof.Machine
end

section
/-! The run of an accepted command to its end (70_reset_and_hazards.md R237, 60_exceptions.md R211). -/

namespace Sys2Proof.Machine

/-- A command that runs on written elements, or has completed, with no move of the host left. -/
structure OnCourse (s : State) : Prop where
  seqWf : s.SeqWf
  script : s.script = []
  written : writtenBelow s.dp.dmem (lenField s.cmdl)
  busy_or_done : s.busy = true ∨ s.done = true

namespace OnCourse

variable {s : State}

/-- Each step answers and brings the command one step nearer to its end. -/
theorem step (h : OnCourse s) (hb : s.busy = true) :
    ∃ t, core.step s = .next t ∧ OnCourse t ∧ s.stepsLeft = t.stepsLeft + 1 := by
  rcases h.seqWf.microDp_stopsOnInput (nm := numB64) hb with ⟨d, hd⟩ | ⟨-, -, k, hk, hunwritten⟩
  · have hstep := (coreStepBy_next_iff hb).2 ⟨d, hd, rfl⟩
    obtain ⟨hseq, hdone⟩ := microDp_seqWf h.seqWf hd
    obtain ⟨-, -, -, hcmdl, hscript⟩ := coreStepBy_frame hstep
    have hleft := (advancePhase_stepsLeft hseq hb hdone).trans (congrArg (· + 1) (redraw_stepsLeft _).symm)
    refine ⟨_, (step_of_no_script h.script).trans hstep,
      ⟨coreStepBy_seqWf h.seqWf hstep, hscript.trans h.script, fun k hk => ?_, ?_⟩, (microDp_stepsLeft hd).symm.trans hleft⟩
    · have hmem : (advance { s with dp := d }).dp.dmem = d.dmem := advance_mem _ .dmem
      have hold : (Mem.get (s.afterLcalc.mem .dmem) k).isSome = true := by
        rw [s.afterLcalc_mem]
        exact h.written k (hcmdl ▸ hk)
      rw [hmem]
      exact (microDp_touches hd).isSome_mono .dmem k hold
    · rcases advance_busy_done { s with dp := d } with ⟨e, -⟩ | ⟨-, e⟩
      · exact .inl (e.trans hb)
      · exact .inr e
  · obtain ⟨-, hn, -⟩ := h.seqWf.command hb
    have hwritten := h.written k (hn ▸ hk)
    rw [hunwritten] at hwritten
    cases hwritten

/-- BUSY is 1 as long as there are steps left. -/
theorem busy_iff (h : OnCourse s) : s.busy = true ↔ 0 < s.stepsLeft := by
  constructor
  · intro hb
    obtain ⟨t, -, -, hleft⟩ := h.step hb
    omega
  · intro hpos
    by_contra hb
    exact hpos.ne' (stepsLeft_of_idle h.seqWf (Bool.eq_false_iff.2 hb))

/-- The run goes on as long as there are steps left, and every step takes one off. -/
theorem run {j : Nat} (h : OnCourse s) (hj : j ≤ s.stepsLeft) :
    ∃ u, Host.Core.run core j s = .next u ∧ OnCourse u ∧ u.stepsLeft + j = s.stepsLeft := by
  induction j generalizing s with
  | zero => exact ⟨s, rfl, h, rfl⟩
  | succ j ih =>
    obtain ⟨t, hstep, ht, hleft⟩ := h.step (h.busy_iff.2 (by omega))
    obtain ⟨u, hu, hon, hsum⟩ := ih ht (by omega)
    exact ⟨u, (run_succ_of_next hstep j).trans hu, hon, by omega⟩

end OnCourse

/-- Of the ends of the checks of R197 only acceptance leaves BUSY = 1. -/
theorem checkCommand_of_busy {R : Type} {s : State.Of R} (hb : s.busy = false) (h : (checkCommand s).busy = true) :
    checkCommand s = acceptCommand s := by
  rcases checkCommand_cases s with ⟨-, e⟩ | ⟨-, -, -, e⟩ | ⟨-, -, -, e⟩ | ⟨-, -, -, -, e⟩
  · rw [e] at h; cases h
  · rw [e, errorCompletion_busy, hb] at h; cases h
  · rw [e, errorCompletion_busy, hb] at h; cases h
  · exact e

/-- An accepted command is on its course, with as many steps left as its opcode and length say. -/
theorem onCourse_of_commandWrite {w : Word} {s t : State} (hs : s.Ready) (hscript : s.script = [])
    (hcmd : commandWrite w s = .next t) (hb : t.busy = true) (hw : writtenBelow s.dp.dmem (lenField w)) :
    OnCourse t ∧ t.stepsLeft = commandSteps (opField w) (lenField w) := by
  by_cases hill : illegalWord w
  · rw [commandWrite_ready_illegal hill hs] at hcmd
    obtain rfl := Host.Outcome.next.inj hcmd
    exact absurd (hs.1.symm.trans hb) nofun
  · have h3 : opField w ≠ 3 := fun h => hill ((illegalWord_iff w).2 (.inr (.inl h)))
    rw [commandWrite_ready_legal hill hs] at hcmd
    obtain rfl := Host.Outcome.next.inj hcmd
    have hacc := checkCommand_of_busy (s := beginCommand w s) hs.1 hb
    obtain ⟨-, hmem, -, hsc, hcmdl⟩ := acceptCommand_frame (beginCommand w s)
    have hdmem : (acceptCommand (beginCommand w s)).dp.dmem = s.dp.dmem := hmem .dmem
    have hseq := acceptCommand_seqWf_of_check (s := beginCommand w s) h3 hs.1 hacc
    rw [hacc]
    refine ⟨⟨hseq, hsc.trans hscript, ?_, .inl (hacc ▸ hb)⟩, acceptCommand_stepsLeft _⟩
    rw [hdmem, hcmdl]
    exact hw

/-- Settles O22: each step takes one off the steps that are left, and BUSY is 1 as long as there are any. -/
theorem acceptedCommandTerminates : Obligations.AcceptedCommandTerminates := by
  intro w s t hs hscript hcmd hb hw
  rw [← lenField_eq] at hw ⊢
  rw [← opField_eq]
  obtain ⟨hon, hleft⟩ := onCourse_of_commandWrite hs hscript hcmd hb hw
  rw [← hleft]
  refine ⟨fun j hj => ?_, ?_⟩
  · obtain ⟨u, hu, hon', hsum⟩ := hon.run hj.le
    exact ⟨u, hu, hon'.busy_iff.2 (by omega)⟩
  · obtain ⟨u, hu, hon', hsum⟩ := hon.run le_rfl
    have hidle : ¬ u.busy = true := by
      rw [hon'.busy_iff]
      omega
    exact ⟨u, hu, Bool.eq_false_iff.2 hidle, hon'.busy_or_done.resolve_left hidle⟩

end Sys2Proof.Machine
end

section
/-! Reset at any time (70_reset_and_hazards.md R225, R226). -/

namespace Sys2Proof.Machine

variable {R : Type}

theorem applyReset_mem (nm : Num R) (s : State.Of R) (m : MemId) : (applyReset nm s).dp.mem m = [] := by cases m <;> rfl

/-- Settles O7: the step is `applyReset`, whatever the core was doing. -/
theorem resetAtAnyTime : Obligations.ResetAtAnyTime := fun s rest h =>
  ⟨applyReset numB64 { s with script := rest }, step_of_script h rfl, rfl, rfl, rfl, rfl,
    fun m k => by rw [applyReset_mem, Mem.get], rfl, rfl, rfl, rfl⟩

end Sys2Proof.Machine
end
